-- ==== Sys2Proof/Word.lean ====
section
/-! DEFINITION. The widths the spec names (00_scope.md rule R5). -/
namespace Sys2Proof

/-- A transport word, 16 bits (R5, R60). -/
abbrev Word := BitVec 16

/-- An in-band byte (R5). -/
abbrev Byte := BitVec 8

/-- The bit pattern of an IEEE-754 binary32 value. Floats are moved bit-exact (R130, R138), so the
pattern is the value the block holds. -/
abbrev F32 := BitVec 32

/-- An operation type: it names a bus list (R14). DESIGN CHOICE (log 42): the set of operation types is a configuration
parameter that the spec leaves open, and the model takes every natural number as one. -/
abbrev Op := Nat

end Sys2Proof
end

