-- ==== Sys2Proof/Syntax.lean ====
section
/-! DEFINITION. The records the operations take as operands, and `Instr`: one constructor for each of the
146 rows of spec/opcode_table.json. -/
namespace Sys2Proof

/-- The three device types (R192). -/
inductive DeviceType where
  | fa | ha | hm
  deriving DecidableEq, Repr, Inhabited

/-- The four orientations (R192), and, so that a malformed P_ILC_MAP can be written down, a value that is none of
them: a map with such a value is ConfigInvalid (R194 constraint 7). -/
inductive Orientation where
  | plusX | minusX | plusY | minusY
  | other (code : Nat)
  deriving DecidableEq, Repr, Inhabited

/-- A channel descriptor (R17, R192); -1 stands for "none" in the index fields. -/
structure ILCMap where
  deviceType : DeviceType
  dataIndex : Int
  secondaryDataIndex : Int
  xDataIndex : Int
  yDataIndex : Int
  actuatorId : Int
  orientation : Orientation
  deriving DecidableEq, Repr, Inhabited

/-- One entry of the configuration parameter P_ILC_MAP (R193, R194). -/
structure MapEntry where
  subnet : Int
  address : Byte
  channel : ILCMap
  deriving DecidableEq, Repr, Inhabited

/-- The nine warning kinds (R23, R331). -/
inductive WarnKind where
  | responseTimeout | invalidCRC | illegalFunction | illegalDataValue | invalidLength
  | unknownSubnet | unknownAddress | unknownFunction | unknownProblem
  deriving DecidableEq, Repr, Inhabited

/-- A force actuator's cylinder axes (R28, R290). -/
inductive Axis where
  | primary | secondary
  deriving DecidableEq, Repr, Inhabited

/-- The five subnets (R2). -/
inductive SubnetNo where
  | one | two | three | four | five
  deriving DecidableEq, Repr, Inhabited

/-- One value for each of the five subnets. -/
structure PerSubnet (α : Type) where
  s1 : α
  s2 : α
  s3 : α
  s4 : α
  s5 : α
  deriving DecidableEq, Repr, Inhabited

/-- What the validator hands to `dispatch` and to a handler besides the function byte: the channel, the
subnet, the address byte, the number k of payload bytes and the frame timestamp (R221, R222). -/
structure Routed where
  ch : ILCMap
  subnet : Int
  addr : Byte
  k : Nat
  ts : BitVec 64
  deriving DecidableEq, Repr, Inhabited

/-- One item of a bus list (R14). -/
structure Item where
  subnet : Int
  address : Byte
  function : Byte
  broadcast : Bool
  expects : Bool
  channel : Option ILCMap
  words : List Word
  deriving DecidableEq, Repr, Inhabited

/-- The outbound control words (R65, R139 to R144). -/
inductive Control where
  | endOfFrame
  | softwareTrigger
  | delay (d : Nat)
  | timestamp
  | triggerIRQ
  | length (n : Nat)
  deriving DecidableEq, Repr, Inhabited

/-- Why the decoder of the call port refuses a word sequence (log 1). Safe: nothing runs. -/
inductive DecodeError where
  /-- there is no word to decode -/
  | empty
  /-- the call's operand words end too early -/
  | truncated
  /-- no row of the table has this call word -/
  | unknownCall (w : Word)
  /-- an operand of the call lies outside its type -/
  | badOperand
  deriving DecidableEq, Repr, Inhabited

/-- The block's instructions: "This spec treats each primitive as one instruction of the block"
(00_scope.md §1). Each constructor is one row of spec/opcode_table.json; its rule stands beside it. -/
inductive Instr where
  -- transport words (R61 to R66)
  | txd (b : Byte) -- TXD, R61
  | rxd (b : Byte) -- RXD, R62
  | tsw (t : Byte) -- TSW, R63
  | eof -- EOF, R64
  | classTs (w : Word) -- CLASS_TS, R66
  | classEofw (w : Word) -- CLASS_EOFW, R66
  | classData (w : Word) -- CLASS_DATA, R66
  -- outbound control words (R65)
  | cwLength (n : Nat) -- CW_LENGTH, R144
  | cwSwTrigger -- CW_SWTRIGGER, R140
  | cwDelay (d : Nat) -- CW_DELAY, R141
  | cwTimestamp -- CW_TIMESTAMP, R142
  | cwTriggerIrq -- CW_TRIGGER_IRQ, R143
  -- success responses (R74, R76, R78, R222)
  | rspFaReportServerID (f : Routed) -- RSP_FA_ReportServerID, R254
  | rspFaReportServerStatus (f : Routed) -- RSP_FA_ReportServerStatus, R255
  | rspFaChangeILCMode (f : Routed) -- RSP_FA_ChangeILCMode, R256
  | rspFaSetBoostValveDCAGains (f : Routed) -- RSP_FA_SetBoostValveDCAGains, R257
  | rspFaReadBoostValveDCAGains (f : Routed) -- RSP_FA_ReadBoostValveDCAGains, R258
  | rspFaForceDemand (f : Routed) -- RSP_FA_ForceDemand, R259
  | rspFaPneumaticForceStatus (f : Routed) -- RSP_FA_PneumaticForceStatus, R260
  | rspFaSetADCScanRate (f : Routed) -- RSP_FA_SetADCScanRate, R261
  | rspFaSetADCChannelOffsetAndSensitivity (f : Routed) -- RSP_FA_SetADCChannelOffsetAndSensitivity, R262
  | rspFaReset (f : Routed) -- RSP_FA_Reset, R263
  | rspFaReadCalibration (f : Routed) -- RSP_FA_ReadCalibration, R264
  | rspFaReportDCAPressure (f : Routed) -- RSP_FA_ReportDCAPressure, R265
  | rspFaReportDCAID (f : Routed) -- RSP_FA_ReportDCAID, R266
  | rspFaReportDCAStatus (f : Routed) -- RSP_FA_ReportDCAStatus, R267
  | rspHaReportServerID (f : Routed) -- RSP_HA_ReportServerID, R268
  | rspHaReportServerStatus (f : Routed) -- RSP_HA_ReportServerStatus, R269
  | rspHaChangeILCMode (f : Routed) -- RSP_HA_ChangeILCMode, R270
  | rspHaStepMotor (f : Routed) -- RSP_HA_StepMotor, R271
  | rspHaElectromechanicalForceAndStatus (f : Routed) -- RSP_HA_ElectromechanicalForceAndStatus, R272
  | rspHaSetADCScanRate (f : Routed) -- RSP_HA_SetADCScanRate, R273
  | rspHaSetADCChannelOffsetAndSensitivity (f : Routed) -- RSP_HA_SetADCChannelOffsetAndSensitivity, R274
  | rspHaReset (f : Routed) -- RSP_HA_Reset, R275
  | rspHaReadCalibration (f : Routed) -- RSP_HA_ReadCalibration, R276
  | rspHmReportServerID (f : Routed) -- RSP_HM_ReportServerID, R277
  | rspHmReportServerStatus (f : Routed) -- RSP_HM_ReportServerStatus, R278
  | rspHmChangeILCMode (f : Routed) -- RSP_HM_ChangeILCMode, R279
  | rspHmReset (f : Routed) -- RSP_HM_Reset, R280
  | rspHmReportHMPressure (f : Routed) -- RSP_HM_ReportHMPressure, R281
  | rspHmReportHMMezzanineID (f : Routed) -- RSP_HM_ReportHMMezzanineID, R282
  | rspHmReportHMMezzanineStatus (f : Routed) -- RSP_HM_ReportHMMezzanineStatus, R283
  | rspHmReportLVDT (f : Routed) -- RSP_HM_ReportLVDT, R284
  -- exception responses (R75, R77, R79, R223)
  | excFa145 (f : Routed) -- EXC_FA_145, R223
  | excFa146 (f : Routed) -- EXC_FA_146, R223
  | excFa193 (f : Routed) -- EXC_FA_193, R223
  | excFa201 (f : Routed) -- EXC_FA_201, R223
  | excFa202 (f : Routed) -- EXC_FA_202, R223
  | excFa203 (f : Routed) -- EXC_FA_203, R223
  | excFa204 (f : Routed) -- EXC_FA_204, R223
  | excFa208 (f : Routed) -- EXC_FA_208, R223
  | excFa209 (f : Routed) -- EXC_FA_209, R223
  | excFa235 (f : Routed) -- EXC_FA_235, R223
  | excFa238 (f : Routed) -- EXC_FA_238, R223
  | excFa247 (f : Routed) -- EXC_FA_247, R223
  | excFa248 (f : Routed) -- EXC_FA_248, R223
  | excFa249 (f : Routed) -- EXC_FA_249, R223
  | excHa145 (f : Routed) -- EXC_HA_145, R223
  | excHa146 (f : Routed) -- EXC_HA_146, R223
  | excHa193 (f : Routed) -- EXC_HA_193, R223
  | excHa194 (f : Routed) -- EXC_HA_194, R223
  | excHa195 (f : Routed) -- EXC_HA_195, R223
  | excHa208 (f : Routed) -- EXC_HA_208, R223
  | excHa209 (f : Routed) -- EXC_HA_209, R223
  | excHa235 (f : Routed) -- EXC_HA_235, R223
  | excHa238 (f : Routed) -- EXC_HA_238, R223
  | excHm145 (f : Routed) -- EXC_HM_145, R223
  | excHm146 (f : Routed) -- EXC_HM_146, R223
  | excHm193 (f : Routed) -- EXC_HM_193, R223
  | excHm235 (f : Routed) -- EXC_HM_235, R223
  | excHm247 (f : Routed) -- EXC_HM_247, R223
  | excHm248 (f : Routed) -- EXC_HM_248, R223
  | excHm249 (f : Routed) -- EXC_HM_249, R223
  | excHm250 (f : Routed) -- EXC_HM_250, R223
  -- requests (R164 to R189); p is the payload P_REQ_PAYLOAD gives (log 16)
  | reqReportServerID (op : Op) (s : Int) (a : Byte) (p : List Byte) -- REQ_ReportServerID, R164
  | reqReportServerStatus (op : Op) (s : Int) (a : Byte) (p : List Byte) -- REQ_ReportServerStatus, R165
  | reqChangeILCMode (op : Op) (s : Int) (a : Byte) (p : List Byte) -- REQ_ChangeILCMode, R166
  | reqSetADCScanRate (op : Op) (s : Int) (a : Byte) (p : List Byte) -- REQ_SetADCScanRate, R167
  | reqSetADCChannelOffsetAndSensitivity (op : Op) (s : Int) (a : Byte) (p : List Byte) -- REQ_SetADCChannelOffsetAndSensitivity, R168
  | reqReset (op : Op) (s : Int) (a : Byte) (p : List Byte) -- REQ_Reset, R169
  | reqReadCalibration (op : Op) (s : Int) (a : Byte) (p : List Byte) -- REQ_ReadCalibration, R170
  | reqReportDCAPressure (op : Op) (s : Int) (a : Byte) (p : List Byte) -- REQ_ReportDCAPressure, R171
  | reqReportDCAID (op : Op) (s : Int) (a : Byte) (p : List Byte) -- REQ_ReportDCAID, R172
  | reqReportDCAStatus (op : Op) (s : Int) (a : Byte) (p : List Byte) -- REQ_ReportDCAStatus, R173
  | reqSetBoostValveDCAGains (op : Op) (s : Int) (a : Byte) (p : List Byte) -- REQ_SetBoostValveDCAGains, R174
  | reqReadBoostValveDCAGains (op : Op) (s : Int) (a : Byte) (p : List Byte) -- REQ_ReadBoostValveDCAGains, R175
  | reqStepMotor (op : Op) (s : Int) (a : Byte) (p : List Byte) -- REQ_StepMotor, R176
  | reqStepMotorBroadcast (op : Op) (s : Int) (p : List Byte) -- REQ_StepMotorBroadcast, R177
  | reqForceDemandSingle (op : Op) (s : Int) (a : Byte) (p : List Byte) -- REQ_ForceDemandSingle, R178
  | reqForceDemandDual (op : Op) (s : Int) (a : Byte) (p : List Byte) -- REQ_ForceDemandDual, R179
  | reqForceDemandBroadcast (op : Op) (s : Int) (p : List Byte) -- REQ_ForceDemandBroadcast, R180
  | reqPneumaticForceStatus (op : Op) (s : Int) (a : Byte) (p : List Byte) -- REQ_PneumaticForceStatus, R181
  | reqElectromechanicalForceAndStatus (op : Op) (s : Int) (a : Byte) (p : List Byte) -- REQ_ElectromechanicalForceAndStatus, R182
  | reqFreezeSensorValuesElectromechanical (op : Op) (s : Int) (p : List Byte) -- REQ_FreezeSensorValuesElectromechanical, R183
  | reqFreezeSensorValuesPneumatic (op : Op) (s : Int) (p : List Byte) -- REQ_FreezeSensorValuesPneumatic, R184
  | reqReportLVDT (op : Op) (s : Int) (a : Byte) (p : List Byte) -- REQ_ReportLVDT, R185
  | reqNopReportLVDT (op : Op) (s : Int) (a : Byte) (p : List Byte) -- REQ_NopReportLVDT, R186
  | reqReportHMPressure (op : Op) (s : Int) (a : Byte) (p : List Byte) -- REQ_ReportHMPressure, R187
  | reqReportHMMezzanineID (op : Op) (s : Int) (a : Byte) (p : List Byte) -- REQ_ReportHMMezzanineID, R188
  | reqReportHMMezzanineStatus (op : Op) (s : Int) (a : Byte) (p : List Byte) -- REQ_ReportHMMezzanineStatus, R189
  -- interface operations
  | reset -- reset, R120
  | load (ws : List Word) -- load, R121
  | writeU8 (v : Int) -- writeU8, R123
  | writeI8 (v : Int) -- writeI8, R124
  | writeU16 (v : Int) -- writeU16, R125
  | writeI16 (v : Int) -- writeI16, R126
  | writeI24 (v : Int) -- writeI24, R127
  | writeU32 (v : Int) -- writeU32, R128
  | writeI32 (v : Int) -- writeI32, R129
  | writeSGL (p : F32) -- writeSGL, R130
  | readU8 -- readU8, R131
  | readI8 -- readI8, R132
  | readU16 -- readU16, R133
  | readI16 -- readI16, R134
  | readI24 -- readI24, R135
  | readU32 -- readU32, R136
  | readI32 -- readI32, R137
  | readSGL -- readSGL, R138
  | writeEndOfFrame -- writeEndOfFrame, R139
  | writeSoftwareTrigger -- writeSoftwareTrigger, R140
  | writeDelay (d : Nat) -- writeDelay, R141
  | writeTimestamp -- writeTimestamp, R142
  | writeTriggerIRQ -- writeTriggerIRQ, R143
  | writeLength (n : Nat) -- writeLength, R144
  | endOfBuffer -- endOfBuffer, R145
  | endOfFrame -- endOfFrame, R146
  | skipToNextFrame -- skipToNextFrame, R147
  | readTimestamp -- readTimestamp, R148
  | readCRC -- readCRC, R149
  | crc16 (bytes : List Byte) -- crc16, R100
  | calculateCRC (start length : Nat) -- calculateCRC, R101
  | writeCRC (length : Nat) -- writeCRC, R102
  | checkFrameCRC (fs n : Nat) -- checkFrameCRC, R103
  | encodeRequest (a f : Byte) (payload : List Byte) -- encodeRequest, R160
  | addUnicast (op : Op) (s : Int) (a f : Byte) (payload : List Byte) -- addUnicast, R161
  | addBroadcast (op : Op) (s : Int) (a f : Byte) (payload : List Byte) -- addBroadcast, R162
  | lookup (s : Int) (a : Byte) -- lookup, R190
  | actuatorIdOf (dt : DeviceType) (i : Int) -- actuatorIdOf, R195
  | decodeBuffer (s : Int) (ws : List Word) -- decodeBuffer, R210
  | decodeFrame (s : Int) -- decodeFrame, R211
  | dispatch (f : Routed) (fn : Byte) -- dispatch, R221
  | clearBusList (op : Op) -- clearBusList, R300
  | runCycle (op : Op) (t : BitVec 64) -- runCycle, R301
  | verifyResponses -- verifyResponses, R308
  | raise (kind : WarnKind) (aid : Int) -- raise, R330
  | loadConfiguration (map : List MapEntry) -- loadConfiguration, R372
  deriving DecidableEq, Repr, Inhabited

end Sys2Proof
end

