-- ==== Sys2Proof/Config.lean ====
section
/-! DEFINITION. The implementation parameters of 00_scope.md rule R4 and the external inputs of 10_state.md
rule R24, as plain data, and the open values that are functions, as constants with no body.

A value no source gives is never picked: a first-order parameter is a field of `Params`, which no rule writes
(R19, log 8), and a function-valued one is an `opaque` constant here. -/
namespace Sys2Proof

/-- Wire byte order of a binary32 value (R43): `lsbFirst` is the source's. -/
inductive FloatOrder where
  | lsbFirst | msbFirst
  deriving DecidableEq, Repr, Inhabited

/-- The families of detailed states (P_STATE_FAMILY). -/
inductive Family where
  | raising | active | lowering | other
  deriving DecidableEq, Repr, Inhabited

/-- An exact number, `num / (denPred + 1)`: a threshold or a conversion factor (log 18). -/
structure Ratio where
  num : Int
  denPred : Nat
  deriving DecidableEq, Repr, Inhabited

/-- The limits of one cylinder: P_FA_HI, P_FA_LO and P_FE_LIMIT of (actuatorId, axis). -/
structure AxisLimits where
  hi : Ratio
  lo : Ratio
  feLimit : Ratio
  deriving DecidableEq, Repr, Inhabited

/-- One row of the threshold tables P_FA_HI, P_FA_LO, P_FE_LIMIT. -/
structure AxisLimitsRow where
  actuatorId : Int
  axis : Axis
  limits : AxisLimits
  deriving DecidableEq, Repr, Inhabited

/-- Where P_BCAST_FIELD embeds the 4-bit broadcast counter (D26, log 17): a nibble of one payload byte, or
another embedding, named by a number, that `Config.bcastEmbed` leaves open. -/
inductive BcastField where
  | nibble (byte : Nat) (high : Bool)
  | other (k : Nat)
  deriving DecidableEq, Repr, Inhabited

/-- The first-order parameters of R4, the arguments the model takes. `P_N_SUBNET` is 5 and `P_TS_WORDS` is 8, the values R4 shows;
`P_BUF_WORDS` is the state's `capacity`; `P_ILC_MAP` is the operand of loadConfiguration. -/
structure Params where
  nFA : Nat
  nHA : Nat
  nHM : Nat
  floatOrder : FloatOrder
  len17 : Nat
  len18 : Nat
  len65 : Nat
  len73 : Nat
  len80 : Nat
  len81 : Nat
  len107 : Nat
  len120 : Nat
  len121 : Nat
  fnStepMotorBcast : Byte
  fnForceDemandBcast : Byte
  fnFreezeEm : Byte
  fnFreezePneu : Byte
  fnNopLvdt : Byte
  nopLvdtExpects : Bool
  decrOnBadCrc : Bool
  bcastField : BcastField
  /-- P_WRITE_TIMEOUT_MS: an argument of `Transport.write`, no more (R304, R380). -/
  writeTimeoutMs : Nat
  /-- P_READ_TIMEOUT_MS: an argument of `Transport.read`, no more (R306, R380). -/
  readTimeoutMs : Nat
  /-- P_SUBNET_TIMEOUT_MS bounds the completion wait; no rule depends on it (R305, R380). -/
  subnetTimeoutMs : Nat
  /-- P_FA_HI, P_FA_LO, P_FE_LIMIT; a cylinder with no row has `Config.axisLimits` (log 19). -/
  axisLimits : List AxisLimitsRow
  lcHi : Ratio
  lcLo : Ratio
  lcActiveHi : Ratio
  lcActiveLo : Ratio
  lcFbHi : Ratio
  lcFbLo : Ratio
  /-- P_AIRP_HI of the three families -/
  airpHiRaising : Ratio
  airpHiActive : Ratio
  airpHiLowering : Ratio
  /-- P_AIRP_LO of the two families that use it, and P_AIRP_LO_RAISING -/
  airpLoActive : Ratio
  airpLoLowering : Ratio
  airpLoRaising : Ratio
  airpIndex : Fin 4
  /-- P_STATE_FAMILY: the detailed states of the three named families; any other is `other` (log 19). -/
  stateFamily : List (Nat × Family)
  umPerCount : Ratio
  deriving DecidableEq, Repr, Inhabited

/-- The last commanded force of one cylinder, in thousandths (R291). -/
structure Command where
  dataIndex : Int
  axis : Axis
  milli : Int
  deriving DecidableEq, Repr, Inhabited

/-- The inputs the block reads but does not hold (R24), as they stand at one step (log 7). -/
structure Env where
  /-- the outcome of the transport write: true is ok, false is timeout (R304) -/
  writeOk : Bool
  /-- each subnet's completion wait: true is SIG, false is TMO (R305) -/
  signal : PerSubnet Bool
  /-- each subnet's raw response buffer (R306) -/
  rx : PerSubnet (List Word)
  /-- the detailed state, from the external state machine -/
  detailedState : Nat
  /-- the force-balance-applied flag -/
  forceBalance : Bool
  /-- the commanded forces; a cylinder that is not listed is commanded 0 (log 19) -/
  commands : List Command
  deriving DecidableEq, Repr, Inhabited

/-- The parameters of R4 that are OPEN: "a model must not assume one" (R4, log 8). -/
opaque Config.openParams : Params

/-- The parameters of a run that starts at reset: those to which R4 shows a value have it, the OPEN ones are not
known (R4, log 8). -/
def Config.params : Params :=
  { Config.openParams with
    floatOrder := .lsbFirst, len17 := 12, len18 := 6, nopLvdtExpects := true, decrOnBadCrc := false }

/-- P_BUF_WORDS less one: the capacity of the wire buffer is OPEN (D28, log 9). -/
opaque Config.bufWordsPred : Nat

/-- The inputs at reset, and those of the steps after it: no source gives them (log 7). -/
opaque Config.firstEnv : Env

/-- See `Config.firstEnv`. -/
opaque Config.laterEnvs : List Env

/-- P_CW_SWTRIGGER, before the constraint of R65 is put on it (D3, log 14). -/
opaque Config.cwSoftwareTrigger : Word

/-- P_CW_DELAY(d), before the constraint of R65 (D3, log 14). -/
opaque Config.cwDelay : Nat → Word

/-- P_CW_TIMESTAMP, before the constraint of R65 (D3, log 14). -/
opaque Config.cwTimestamp : Word

/-- P_CW_TRIGGER_IRQ, before the constraint of R65 (D3, log 14). -/
opaque Config.cwTriggerIRQ : Word

/-- P_CW_LENGTH(n), before the constraint of R65 (D3, log 14). -/
opaque Config.cwLength : Nat → Word

/-- P_ASSEMBLE: which waiting item's subnet comes next, at each place of the run order (D33, log 15). -/
opaque Config.assemblePick : List Item → Nat → Nat

/-- P_ASSEMBLE: the control words before each place of the run order (D33, log 15). -/
opaque Config.assembleControls : List Item → Nat → List Control

/-- P_BCAST_FIELD for the embeddings that are not a nibble of one payload byte (D26, log 17). -/
opaque Config.bcastEmbed : Nat → List Byte → BitVec 4 → List Byte

/-- P_FORCE_CONV: primary and secondary cylinder force to mirror-frame X, Y, Z (D31). That its results are binary32
patterns is the model's choice: no source gives their number format (log 18). -/
opaque Config.forceConv : Orientation → F32 → F32 → F32 × F32 × F32

/-- P_FORCE_CONV_SINGLE: primary cylinder force to zForce (D31), a binary32 pattern too (log 18). -/
opaque Config.forceConvSingle : F32 → F32

/-- The free values: the n-th value of a run that no rule states (log 28). -/
opaque Config.freeWord : Nat → Word

/-- The limits of a cylinder the threshold tables do not list (log 19). -/
opaque Config.axisLimits : Int → Axis → AxisLimits

end Sys2Proof
end

