-- ==== Sys2Proof/Machine/Codec.lean ====
section
/-! DEFINITION. Bit fields, transport-word forms and byte orders: 00_scope.md rules R6 and R8, 20_memory.md rules
R42 to R45, 30_encoding.md rules R60 to R66 and R73. -/
namespace Sys2Proof.Machine

/-- `tag(w) = w[15:12]` (R6). -/
def tag (w : Word) : BitVec 4 := w.extractLsb' 12 4

/-- `byteOf(w) = w[8:1]`, the byte a data word carries (R6). -/
def byteOf (w : Word) : Byte := w.extractLsb' 1 8

/-- `tsByteOf(w) = w[7:0]`, the byte a timestamp word carries (R6). -/
def tsByteOf (w : Word) : Byte := w.extractLsb' 0 8

/-- `TXD(b) = (b << 1) | 0x1200` (R61). -/
def txdWord (b : Byte) : Word := (b.setWidth 16 <<< 1) ||| 0x1200#16

/-- `RXD(b) = (b << 1) | 0x9000` (R62). -/
def rxdWord (b : Byte) : Word := (b.setWidth 16 <<< 1) ||| 0x9000#16

/-- `TSW(b) = 0xB000 | b` (R63). -/
def tswWord (b : Byte) : Word := 0xB000#16 ||| b.setWidth 16

/-- The end-of-frame word, exactly 0xA000 (R64). -/
def eofWord : Word := 0xA000#16

/-- Does the word match the TX data pattern of R61 (match 0x1200, mask 0xFE01)? -/
def isTxd (w : Word) : Bool := w &&& 0xFE01#16 == 0x1200#16

/-- Does the word match the RX data pattern of R62 (match 0x9000, mask 0xFE01)? -/
def isRxd (w : Word) : Bool := w &&& 0xFE01#16 == 0x9000#16

/-- Does the word match the timestamp pattern of R63 (match 0xB000, mask 0xFF00)? -/
def isTsw (w : Word) : Bool := w &&& 0xFF00#16 == 0xB000#16

/-- The three classes of an inbound word (R66). -/
inductive WordClass where
  | ts | eofw | data
  deriving DecidableEq, Repr, Inhabited

/-- Inbound word classification by the tag nibble (R66). -/
def classify (w : Word) : WordClass :=
  if tag w = 0xB#4 then .ts else if tag w = 0xA#4 then .eofw else .data

/-- "no control word matches the TX data pattern of rule R61" (R65): every word but those is its own image,
so the open value under it ranges over exactly the words R65 admits (log 14). -/
def nonTxd (w : Word) : Word := if isTxd w then w ||| 1#16 else w

/-- The word a control operation writes (R139 to R144). -/
def controlWord : Control → Word
  | .endOfFrame => eofWord
  | .softwareTrigger => nonTxd Config.cwSoftwareTrigger
  | .delay d => nonTxd (Config.cwDelay d)
  | .timestamp => nonTxd Config.cwTimestamp
  | .triggerIRQ => nonTxd Config.cwTriggerIRQ
  | .length n => nonTxd (Config.cwLength n)

/-- `be(b0, .., bk)`: b0 is the most significant byte (R8, R42). -/
def be (bs : List Byte) : Nat := bs.foldl (fun acc b => acc * 256 + b.toNat) 0

/-- `le(b0, .., bk)`: b0 is the least significant byte (R8). -/
def le (bs : List Byte) : Nat := be bs.reverse

/-- `sext`: the two's-complement value of the low `bits` bits of `v` (R5). -/
def sext (bits v : Nat) : Int := (BitVec.ofNat bits v).toInt

/-- The low `k` bytes of `v`, most significant first: `v[8k-1:8k-8], .., v[7:0]` (R73); a value outside the
type's range has its low bits taken (D39). -/
def beBytes : Nat → Int → List Byte
  | 0, _ => []
  | k + 1, v => ((BitVec.ofInt (8 * (k + 1)) v).extractLsb' (8 * k) 8) :: beBytes k v

/-- The wire bytes of a binary32 pattern in the given order (R73, R130). -/
def floatBytes (o : FloatOrder) (p : F32) : List Byte :=
  let lsb := [p.extractLsb' 0 8, p.extractLsb' 8 8, p.extractLsb' 16 8, p.extractLsb' 24 8]
  match o with
  | .lsbFirst => lsb
  | .msbFirst => lsb.reverse

/-- The binary32 pattern that four wire bytes carry in the given order (R73, R138). -/
def floatOf (o : FloatOrder) (bs : List Byte) : F32 :=
  match o with
  | .lsbFirst => BitVec.ofNat 32 (le bs)
  | .msbFirst => BitVec.ofNat 32 (be bs)

end Sys2Proof.Machine

namespace Sys2Proof

/-- The numeric codes of the warning kinds (R331). -/
def WarnKind.code : WarnKind → Nat
  | .responseTimeout => 0
  | .invalidCRC => 1
  | .illegalFunction => 2
  | .illegalDataValue => 3
  | .invalidLength => 4
  | .unknownSubnet => 5
  | .unknownAddress => 6
  | .unknownFunction => 7
  | .unknownProblem => 8

/-- The subnet's number, 1 to 5 (R2, R191). -/
def SubnetNo.num : SubnetNo → Int
  | .one => 1
  | .two => 2
  | .three => 3
  | .four => 4
  | .five => 5

/-- The next subnet in the fixed order 1, 2, 3, 4, 5 (R2). -/
def SubnetNo.next? : SubnetNo → Option SubnetNo
  | .one => some .two
  | .two => some .three
  | .three => some .four
  | .four => some .five
  | .five => none

/-- The value for one subnet. -/
def PerSubnet.get {α : Type} (p : PerSubnet α) : SubnetNo → α
  | .one => p.s1
  | .two => p.s2
  | .three => p.s3
  | .four => p.s4
  | .five => p.s5

/-- The record with one subnet's value replaced. -/
def PerSubnet.set {α : Type} (p : PerSubnet α) (s : SubnetNo) (v : α) : PerSubnet α :=
  match s with
  | .one => { p with s1 := v }
  | .two => { p with s2 := v }
  | .three => { p with s3 := v }
  | .four => { p with s4 := v }
  | .five => { p with s5 := v }

end Sys2Proof
end

