-- ==== Sys2Proof/WellFormed.lean ====
section
/-! DEFINITION. Which instructions have an encoding: exactly those the decoder can give. Every operand value that can
be written down runs (log 28). -/
namespace Sys2Proof

/-- The channel of a response row is of the row's device type (R80). -/
def channelIs (dt : DeviceType) (f : Routed) : Bool := decide (f.ch.deviceType = dt)

/-- The operands of `i` can be encoded. A class row stands for the words that no more specific word row matches
(log 2), and a response row for a frame of a channel of its device type (R80). -/
def Instr.wf (i : Instr) : Bool :=
  match i with
  | .txd _ => true
  | .rxd _ => true
  | .tsw _ => true
  | .eof => true
  | .classTs w => decide (Machine.classify w = .ts) && !Machine.isTsw w
  | .classEofw w => decide (Machine.classify w = .eofw) && !decide (w = Machine.eofWord)
  | .classData w => decide (Machine.classify w = .data) && !Machine.isTxd w && !Machine.isRxd w
  | .cwLength _ => true
  | .cwSwTrigger => true
  | .cwDelay _ => true
  | .cwTimestamp => true
  | .cwTriggerIrq => true
  | .rspFaReportServerID f => channelIs .fa f
  | .rspFaReportServerStatus f => channelIs .fa f
  | .rspFaChangeILCMode f => channelIs .fa f
  | .rspFaSetBoostValveDCAGains f => channelIs .fa f
  | .rspFaReadBoostValveDCAGains f => channelIs .fa f
  | .rspFaForceDemand f => channelIs .fa f
  | .rspFaPneumaticForceStatus f => channelIs .fa f
  | .rspFaSetADCScanRate f => channelIs .fa f
  | .rspFaSetADCChannelOffsetAndSensitivity f => channelIs .fa f
  | .rspFaReset f => channelIs .fa f
  | .rspFaReadCalibration f => channelIs .fa f
  | .rspFaReportDCAPressure f => channelIs .fa f
  | .rspFaReportDCAID f => channelIs .fa f
  | .rspFaReportDCAStatus f => channelIs .fa f
  | .rspHaReportServerID f => channelIs .ha f
  | .rspHaReportServerStatus f => channelIs .ha f
  | .rspHaChangeILCMode f => channelIs .ha f
  | .rspHaStepMotor f => channelIs .ha f
  | .rspHaElectromechanicalForceAndStatus f => channelIs .ha f
  | .rspHaSetADCScanRate f => channelIs .ha f
  | .rspHaSetADCChannelOffsetAndSensitivity f => channelIs .ha f
  | .rspHaReset f => channelIs .ha f
  | .rspHaReadCalibration f => channelIs .ha f
  | .rspHmReportServerID f => channelIs .hm f
  | .rspHmReportServerStatus f => channelIs .hm f
  | .rspHmChangeILCMode f => channelIs .hm f
  | .rspHmReset f => channelIs .hm f
  | .rspHmReportHMPressure f => channelIs .hm f
  | .rspHmReportHMMezzanineID f => channelIs .hm f
  | .rspHmReportHMMezzanineStatus f => channelIs .hm f
  | .rspHmReportLVDT f => channelIs .hm f
  | .excFa145 f => channelIs .fa f
  | .excFa146 f => channelIs .fa f
  | .excFa193 f => channelIs .fa f
  | .excFa201 f => channelIs .fa f
  | .excFa202 f => channelIs .fa f
  | .excFa203 f => channelIs .fa f
  | .excFa204 f => channelIs .fa f
  | .excFa208 f => channelIs .fa f
  | .excFa209 f => channelIs .fa f
  | .excFa235 f => channelIs .fa f
  | .excFa238 f => channelIs .fa f
  | .excFa247 f => channelIs .fa f
  | .excFa248 f => channelIs .fa f
  | .excFa249 f => channelIs .fa f
  | .excHa145 f => channelIs .ha f
  | .excHa146 f => channelIs .ha f
  | .excHa193 f => channelIs .ha f
  | .excHa194 f => channelIs .ha f
  | .excHa195 f => channelIs .ha f
  | .excHa208 f => channelIs .ha f
  | .excHa209 f => channelIs .ha f
  | .excHa235 f => channelIs .ha f
  | .excHa238 f => channelIs .ha f
  | .excHm145 f => channelIs .hm f
  | .excHm146 f => channelIs .hm f
  | .excHm193 f => channelIs .hm f
  | .excHm235 f => channelIs .hm f
  | .excHm247 f => channelIs .hm f
  | .excHm248 f => channelIs .hm f
  | .excHm249 f => channelIs .hm f
  | .excHm250 f => channelIs .hm f
  | .reqReportServerID _ _ _ _ => true
  | .reqReportServerStatus _ _ _ _ => true
  | .reqChangeILCMode _ _ _ _ => true
  | .reqSetADCScanRate _ _ _ _ => true
  | .reqSetADCChannelOffsetAndSensitivity _ _ _ _ => true
  | .reqReset _ _ _ _ => true
  | .reqReadCalibration _ _ _ _ => true
  | .reqReportDCAPressure _ _ _ _ => true
  | .reqReportDCAID _ _ _ _ => true
  | .reqReportDCAStatus _ _ _ _ => true
  | .reqSetBoostValveDCAGains _ _ _ _ => true
  | .reqReadBoostValveDCAGains _ _ _ _ => true
  | .reqStepMotor _ _ _ _ => true
  | .reqStepMotorBroadcast _ _ _ => true
  | .reqForceDemandSingle _ _ _ _ => true
  | .reqForceDemandDual _ _ _ _ => true
  | .reqForceDemandBroadcast _ _ _ => true
  | .reqPneumaticForceStatus _ _ _ _ => true
  | .reqElectromechanicalForceAndStatus _ _ _ _ => true
  | .reqFreezeSensorValuesElectromechanical _ _ _ => true
  | .reqFreezeSensorValuesPneumatic _ _ _ => true
  | .reqReportLVDT _ _ _ _ => true
  | .reqNopReportLVDT _ _ _ _ => true
  | .reqReportHMPressure _ _ _ _ => true
  | .reqReportHMMezzanineID _ _ _ _ => true
  | .reqReportHMMezzanineStatus _ _ _ _ => true
  | .reset => true
  | .load _ => true
  | .writeU8 _ => true
  | .writeI8 _ => true
  | .writeU16 _ => true
  | .writeI16 _ => true
  | .writeI24 _ => true
  | .writeU32 _ => true
  | .writeI32 _ => true
  | .writeSGL _ => true
  | .readU8 => true
  | .readI8 => true
  | .readU16 => true
  | .readI16 => true
  | .readI24 => true
  | .readU32 => true
  | .readI32 => true
  | .readSGL => true
  | .writeEndOfFrame => true
  | .writeSoftwareTrigger => true
  | .writeDelay _ => true
  | .writeTimestamp => true
  | .writeTriggerIRQ => true
  | .writeLength _ => true
  | .endOfBuffer => true
  | .endOfFrame => true
  | .skipToNextFrame => true
  | .readTimestamp => true
  | .readCRC => true
  | .crc16 _ => true
  | .calculateCRC _ _ => true
  | .writeCRC _ => true
  | .checkFrameCRC _ _ => true
  | .encodeRequest _ _ _ => true
  | .addUnicast _ _ _ _ _ => true
  | .addBroadcast _ _ _ _ _ => true
  | .lookup _ _ => true
  | .actuatorIdOf _ _ => true
  | .decodeBuffer _ _ => true
  | .decodeFrame _ => true
  | .dispatch _ _ => true
  | .clearBusList _ => true
  | .runCycle _ _ => true
  | .verifyResponses => true
  | .raise _ _ => true
  | .loadConfiguration _ => true

end Sys2Proof
end

