-- ==== Sys2Proof/Decode.lean ====
section
/-! DEFINITION. The decoder and the encoder of the block's call port.

A transport word stands for itself, in the spec's encoding (R61 to R66). Every other row is a CALL: a call word
with tag nibble 0 and then its operands. The call word of a row to which the spec gives a function byte holds that
byte in bits 7..0 and, in bits 11..8, how many earlier rows of spec/opcode_table.json have the same byte; the rows
with no value in the spec are numbered from 0x0F00. The layout of calls is the MODEL's own: DESIGN CHOICE, log 1;
which of two rows that match one word is decoded: log 2.

Operands are naturals written in 15-bit digits, least significant first, bit 15 set on every word but the last. -/
namespace Sys2Proof

/-- A reader of the head of a word stream. -/
abbrev Parser (α : Type) := List Word → Except DecodeError (α × List Word)

/-- The words of one natural; the fuel `f` need not exceed `n`. -/
def encNatFuel : Nat → Nat → List Word
  | 0, n => [BitVec.ofNat 16 n]
  | f + 1, n =>
    if n < 32768 then [BitVec.ofNat 16 n]
    else BitVec.ofNat 16 (n % 32768 + 32768) :: encNatFuel f (n / 32768)

/-- The operand words of a natural. -/
def encNat (n : Nat) : List Word := encNatFuel n n

/-- Reads one natural. -/
def parseNat : Parser Nat
  | [] => .error .truncated
  | w :: ws =>
    if w.toNat < 32768 then .ok (w.toNat, ws)
    else match parseNat ws with
      | .ok (n, rest) => .ok (w.toNat - 32768 + 32768 * n, rest)
      | .error e => .error e

/-- Applies a partial function to what a parser reads; `none` is an operand outside its type. -/
def Parser.filterMap {α β : Type} (p : Parser α) (f : α → Option β) : Parser β := fun ws =>
  match p ws with
  | .error e => .error e
  | .ok (a, rest) =>
    match f a with
    | some b => .ok (b, rest)
    | none => .error .badOperand

/-- Applies a function to what a parser reads. -/
def Parser.map {α β : Type} (p : Parser α) (f : α → β) : Parser β := fun ws =>
  match p ws with
  | .error e => .error e
  | .ok (a, rest) => .ok (f a, rest)

/-- Reads with `p`, then with `q`. -/
def Parser.pair {α β : Type} (p : Parser α) (q : Parser β) : Parser (α × β) := fun ws =>
  match p ws with
  | .error e => .error e
  | .ok (a, ws) =>
    match q ws with
    | .error e => .error e
    | .ok (b, rest) => .ok ((a, b), rest)

/-- Reads nothing. -/
def Parser.nothing {α : Type} (a : α) : Parser α := fun ws => .ok (a, ws)

/-- Reads `n` values with `p`. -/
def Parser.times {α : Type} (p : Parser α) : Nat → Parser (List α)
  | 0 => .nothing []
  | n + 1 => (p.pair (p.times n)).map fun x => x.1 :: x.2

/-- Reads a list: its length, then its elements. -/
def Parser.list {α : Type} (p : Parser α) : Parser (List α) := fun ws =>
  match parseNat ws with
  | .error e => .error e
  | .ok (n, ws) => p.times n ws

/-- The operand words of a list: its length, then its elements. -/
def encList {α : Type} (e : α → List Word) (l : List α) : List Word :=
  encNat l.length ++ l.flatMap e

/-- An integer as a natural: 0, -1, 1, -2, 2, … as 0, 1, 2, 3, 4, … -/
def natOfInt : Int → Nat
  | .ofNat n => 2 * n
  | .negSucc n => 2 * n + 1

/-- The inverse of `natOfInt`. -/
def intOfNat (n : Nat) : Int := if n % 2 = 0 then .ofNat (n / 2) else .negSucc (n / 2)

/-- The operand words of an integer. -/
def encInt (i : Int) : List Word := encNat (natOfInt i)

/-- Reads one integer. -/
def parseInt : Parser Int := parseNat.map intOfNat

/-- The operand words of a bit vector. -/
def encBits {k : Nat} (b : BitVec k) : List Word := encNat b.toNat

/-- Reads a bit vector of width `k`; a larger number is refused. -/
def parseBits (k : Nat) : Parser (BitVec k) :=
  parseNat.filterMap fun n => if n < 2 ^ k then some (BitVec.ofNat k n) else none

/-- The device types' operand codes. -/
def deviceTypeCode : DeviceType → Nat
  | .fa => 0
  | .ha => 1
  | .hm => 2

/-- Reads a device type. -/
def parseDeviceType : Parser DeviceType := parseNat.filterMap fun n =>
  if n = 0 then some .fa else if n = 1 then some .ha else if n = 2 then some .hm else none

/-- The orientations' operand codes. -/
def orientationCode : Orientation → Nat
  | .plusX => 0
  | .minusX => 1
  | .plusY => 2
  | .minusY => 3
  | .other k => k + 4

/-- Reads an orientation. -/
def parseOrientation : Parser Orientation := parseNat.map fun n =>
  if n = 0 then .plusX else if n = 1 then .minusX
  else if n = 2 then .plusY else if n = 3 then .minusY else .other (n - 4)

/-- Reads a warning kind by its code (R331). -/
def parseWarnKind : Parser WarnKind := parseNat.filterMap fun n =>
  [WarnKind.responseTimeout, .invalidCRC, .illegalFunction, .illegalDataValue, .invalidLength,
    .unknownSubnet, .unknownAddress, .unknownFunction, .unknownProblem][n]?

/-- The operand words of a channel descriptor but for its device type. -/
def encChannel (c : ILCMap) : List Word :=
  encInt c.dataIndex ++ encInt c.secondaryDataIndex ++ encInt c.xDataIndex ++ encInt c.yDataIndex ++
    encInt c.actuatorId ++ encNat (orientationCode c.orientation)

/-- Reads a channel descriptor of device type `dt`. -/
def parseChannel (dt : DeviceType) : Parser ILCMap :=
  (parseInt.pair (parseInt.pair (parseInt.pair (parseInt.pair (parseInt.pair parseOrientation))))).map
    fun x => ⟨dt, x.1, x.2.1, x.2.2.1, x.2.2.2.1, x.2.2.2.2.1, x.2.2.2.2.2⟩

/-- The operand words of a routed frame but for its channel's device type. -/
def encRouted (f : Routed) : List Word :=
  encChannel f.ch ++ encInt f.subnet ++ encBits f.addr ++ encNat f.k ++ encBits f.ts

/-- Reads a routed frame whose channel is of device type `dt`. -/
def parseRouted (dt : DeviceType) : Parser Routed :=
  ((parseChannel dt).pair (parseInt.pair ((parseBits 8).pair (parseNat.pair (parseBits 64))))).map
    fun x => ⟨x.1, x.2.1, x.2.2.1, x.2.2.2.1, x.2.2.2.2⟩

/-- The operand words of a map entry. -/
def encMapEntry (e : MapEntry) : List Word :=
  encInt e.subnet ++ encBits e.address ++ encNat (deviceTypeCode e.channel.deviceType) ++ encChannel e.channel

/-- Reads a map entry. -/
def parseMapEntry : Parser MapEntry := fun ws =>
  match (parseInt.pair ((parseBits 8).pair parseDeviceType)) ws with
  | .error e => .error e
  | .ok ((s, a, dt), ws) => (parseChannel dt).map (fun c => ⟨s, a, c⟩) ws

/-- Reads a device type, then a routed frame of it, then a function byte. -/
def parseDispatch : Parser Instr := fun ws =>
  match parseDeviceType ws with
  | .error e => .error e
  | .ok (dt, ws) => ((parseRouted dt).pair (parseBits 8)).map (fun x => .dispatch x.1 x.2) ws

/-- A call: its call word, then its operand words. -/
def call (op : Nat) (operands : List Word) : List Word := BitVec.ofNat 16 op :: operands

/-- The words of a request operand list `(op, s, a, p)`. -/
def encRequest (op : Op) (s : Int) (a : Byte) (p : List Byte) : List Word :=
  encNat op ++ encInt s ++ encBits a ++ encList encBits p

/-- Reads `(op, s, a, p)`. -/
def parseRequest (f : Op → Int → Byte → List Byte → Instr) : Parser Instr :=
  (parseNat.pair (parseInt.pair ((parseBits 8).pair (parseBits 8).list))).map
    fun x => f x.1 x.2.1 x.2.2.1 x.2.2.2

/-- The words of a broadcast request's operand list `(op, s, p)`. -/
def encBroadcast (op : Op) (s : Int) (p : List Byte) : List Word :=
  encNat op ++ encInt s ++ encList encBits p

/-- Reads `(op, s, p)`. -/
def parseBroadcast (f : Op → Int → List Byte → Instr) : Parser Instr :=
  (parseNat.pair (parseInt.pair (parseBits 8).list)).map fun x => f x.1 x.2.1 x.2.2

/-- The instruction a transport word stands for: the row with the most specific matching pattern
(R61 to R66, log 2). -/
def decodeTransport (w : Word) : Instr :=
  if Machine.isTxd w then .txd (Machine.byteOf w)
  else if Machine.isRxd w then .rxd (Machine.byteOf w)
  else if Machine.isTsw w then .tsw (Machine.tsByteOf w)
  else if w = Machine.eofWord then .eof
  else match Machine.classify w with
    | .ts => .classTs w
    | .eofw => .classEofw w
    | .data => .classData w

/-- The call words of the word rows with no word of their own, each with the reader of its operands. 0x0F00 delivers
the transport word that is its operand: a word of tag 0 is taken for a call word where it stands alone. -/
def wordCalls : List (Nat × Parser Instr) :=
  [(0x0F00, (parseBits 16).map decodeTransport),
   (0x0F01, parseNat.map Instr.cwLength),
   (0x0F02, .nothing Instr.cwSwTrigger),
   (0x0F03, parseNat.map Instr.cwDelay),
   (0x0F04, .nothing Instr.cwTimestamp),
   (0x0F05, .nothing Instr.cwTriggerIrq)]

/-- The call words of the success responses, each with the reader of its operands. -/
def responseCalls : List (Nat × Parser Instr) :=
  [(0x0011, (parseRouted .fa).map Instr.rspFaReportServerID),
   (0x0012, (parseRouted .fa).map Instr.rspFaReportServerStatus),
   (0x0041, (parseRouted .fa).map Instr.rspFaChangeILCMode),
   (0x0049, (parseRouted .fa).map Instr.rspFaSetBoostValveDCAGains),
   (0x004A, (parseRouted .fa).map Instr.rspFaReadBoostValveDCAGains),
   (0x004B, (parseRouted .fa).map Instr.rspFaForceDemand),
   (0x004C, (parseRouted .fa).map Instr.rspFaPneumaticForceStatus),
   (0x0050, (parseRouted .fa).map Instr.rspFaSetADCScanRate),
   (0x0051, (parseRouted .fa).map Instr.rspFaSetADCChannelOffsetAndSensitivity),
   (0x006B, (parseRouted .fa).map Instr.rspFaReset),
   (0x006E, (parseRouted .fa).map Instr.rspFaReadCalibration),
   (0x0077, (parseRouted .fa).map Instr.rspFaReportDCAPressure),
   (0x0078, (parseRouted .fa).map Instr.rspFaReportDCAID),
   (0x0079, (parseRouted .fa).map Instr.rspFaReportDCAStatus),
   (0x0111, (parseRouted .ha).map Instr.rspHaReportServerID),
   (0x0112, (parseRouted .ha).map Instr.rspHaReportServerStatus),
   (0x0141, (parseRouted .ha).map Instr.rspHaChangeILCMode),
   (0x0042, (parseRouted .ha).map Instr.rspHaStepMotor),
   (0x0043, (parseRouted .ha).map Instr.rspHaElectromechanicalForceAndStatus),
   (0x0150, (parseRouted .ha).map Instr.rspHaSetADCScanRate),
   (0x0151, (parseRouted .ha).map Instr.rspHaSetADCChannelOffsetAndSensitivity),
   (0x016B, (parseRouted .ha).map Instr.rspHaReset),
   (0x016E, (parseRouted .ha).map Instr.rspHaReadCalibration),
   (0x0211, (parseRouted .hm).map Instr.rspHmReportServerID),
   (0x0212, (parseRouted .hm).map Instr.rspHmReportServerStatus),
   (0x0241, (parseRouted .hm).map Instr.rspHmChangeILCMode),
   (0x026B, (parseRouted .hm).map Instr.rspHmReset),
   (0x0177, (parseRouted .hm).map Instr.rspHmReportHMPressure),
   (0x0178, (parseRouted .hm).map Instr.rspHmReportHMMezzanineID),
   (0x0179, (parseRouted .hm).map Instr.rspHmReportHMMezzanineStatus),
   (0x007A, (parseRouted .hm).map Instr.rspHmReportLVDT)]

/-- The call words of the exception responses, each with the reader of its operands. -/
def exceptionCalls : List (Nat × Parser Instr) :=
  [(0x0091, (parseRouted .fa).map Instr.excFa145),
   (0x0092, (parseRouted .fa).map Instr.excFa146),
   (0x00C1, (parseRouted .fa).map Instr.excFa193),
   (0x00C9, (parseRouted .fa).map Instr.excFa201),
   (0x00CA, (parseRouted .fa).map Instr.excFa202),
   (0x00CB, (parseRouted .fa).map Instr.excFa203),
   (0x00CC, (parseRouted .fa).map Instr.excFa204),
   (0x00D0, (parseRouted .fa).map Instr.excFa208),
   (0x00D1, (parseRouted .fa).map Instr.excFa209),
   (0x00EB, (parseRouted .fa).map Instr.excFa235),
   (0x00EE, (parseRouted .fa).map Instr.excFa238),
   (0x00F7, (parseRouted .fa).map Instr.excFa247),
   (0x00F8, (parseRouted .fa).map Instr.excFa248),
   (0x00F9, (parseRouted .fa).map Instr.excFa249),
   (0x0191, (parseRouted .ha).map Instr.excHa145),
   (0x0192, (parseRouted .ha).map Instr.excHa146),
   (0x01C1, (parseRouted .ha).map Instr.excHa193),
   (0x00C2, (parseRouted .ha).map Instr.excHa194),
   (0x00C3, (parseRouted .ha).map Instr.excHa195),
   (0x01D0, (parseRouted .ha).map Instr.excHa208),
   (0x01D1, (parseRouted .ha).map Instr.excHa209),
   (0x01EB, (parseRouted .ha).map Instr.excHa235),
   (0x01EE, (parseRouted .ha).map Instr.excHa238),
   (0x0291, (parseRouted .hm).map Instr.excHm145),
   (0x0292, (parseRouted .hm).map Instr.excHm146),
   (0x02C1, (parseRouted .hm).map Instr.excHm193),
   (0x02EB, (parseRouted .hm).map Instr.excHm235),
   (0x01F7, (parseRouted .hm).map Instr.excHm247),
   (0x01F8, (parseRouted .hm).map Instr.excHm248),
   (0x01F9, (parseRouted .hm).map Instr.excHm249),
   (0x00FA, (parseRouted .hm).map Instr.excHm250)]

/-- The call words of the requests, each with the reader of its operands. -/
def requestCalls : List (Nat × Parser Instr) :=
  [(0x0311, parseRequest Instr.reqReportServerID),
   (0x0312, parseRequest Instr.reqReportServerStatus),
   (0x0341, parseRequest Instr.reqChangeILCMode),
   (0x0250, parseRequest Instr.reqSetADCScanRate),
   (0x0251, parseRequest Instr.reqSetADCChannelOffsetAndSensitivity),
   (0x036B, parseRequest Instr.reqReset),
   (0x026E, parseRequest Instr.reqReadCalibration),
   (0x0277, parseRequest Instr.reqReportDCAPressure),
   (0x0278, parseRequest Instr.reqReportDCAID),
   (0x0279, parseRequest Instr.reqReportDCAStatus),
   (0x0149, parseRequest Instr.reqSetBoostValveDCAGains),
   (0x014A, parseRequest Instr.reqReadBoostValveDCAGains),
   (0x0142, parseRequest Instr.reqStepMotor),
   (0x0F06, parseBroadcast Instr.reqStepMotorBroadcast),
   (0x014B, parseRequest Instr.reqForceDemandSingle),
   (0x024B, parseRequest Instr.reqForceDemandDual),
   (0x0F07, parseBroadcast Instr.reqForceDemandBroadcast),
   (0x014C, parseRequest Instr.reqPneumaticForceStatus),
   (0x0143, parseRequest Instr.reqElectromechanicalForceAndStatus),
   (0x0F08, parseBroadcast Instr.reqFreezeSensorValuesElectromechanical),
   (0x0F09, parseBroadcast Instr.reqFreezeSensorValuesPneumatic),
   (0x017A, parseRequest Instr.reqReportLVDT),
   (0x0F0A, parseRequest Instr.reqNopReportLVDT),
   (0x0377, parseRequest Instr.reqReportHMPressure),
   (0x0378, parseRequest Instr.reqReportHMMezzanineID),
   (0x0379, parseRequest Instr.reqReportHMMezzanineStatus)]

/-- The call words of the interface operations, each with the reader of its operands. -/
def interfaceCalls : List (Nat × Parser Instr) :=
  [(0x0F10, .nothing Instr.reset),
   (0x0F11, (parseBits 16).list.map Instr.load),
   (0x0F12, parseInt.map Instr.writeU8),
   (0x0F13, parseInt.map Instr.writeI8),
   (0x0F14, parseInt.map Instr.writeU16),
   (0x0F15, parseInt.map Instr.writeI16),
   (0x0F16, parseInt.map Instr.writeI24),
   (0x0F17, parseInt.map Instr.writeU32),
   (0x0F18, parseInt.map Instr.writeI32),
   (0x0F19, (parseBits 32).map Instr.writeSGL),
   (0x0F1A, .nothing Instr.readU8),
   (0x0F1B, .nothing Instr.readI8),
   (0x0F1C, .nothing Instr.readU16),
   (0x0F1D, .nothing Instr.readI16),
   (0x0F1E, .nothing Instr.readI24),
   (0x0F1F, .nothing Instr.readU32),
   (0x0F20, .nothing Instr.readI32),
   (0x0F21, .nothing Instr.readSGL),
   (0x0F22, .nothing Instr.writeEndOfFrame),
   (0x0F23, .nothing Instr.writeSoftwareTrigger),
   (0x0F24, parseNat.map Instr.writeDelay),
   (0x0F25, .nothing Instr.writeTimestamp),
   (0x0F26, .nothing Instr.writeTriggerIRQ),
   (0x0F27, parseNat.map Instr.writeLength),
   (0x0F28, .nothing Instr.endOfBuffer),
   (0x0F29, .nothing Instr.endOfFrame),
   (0x0F2A, .nothing Instr.skipToNextFrame),
   (0x0F2B, .nothing Instr.readTimestamp),
   (0x0F2C, .nothing Instr.readCRC),
   (0x0F2D, (parseBits 8).list.map Instr.crc16),
   (0x0F2E, (parseNat.pair parseNat).map fun x => Instr.calculateCRC x.1 x.2),
   (0x0F2F, parseNat.map Instr.writeCRC),
   (0x0F30, (parseNat.pair parseNat).map fun x => Instr.checkFrameCRC x.1 x.2),
   (0x0F31, ((parseBits 8).pair ((parseBits 8).pair ((parseBits 8).list))).map fun x => Instr.encodeRequest x.1 x.2.1 x.2.2),
   (0x0F32, (parseNat.pair (parseInt.pair ((parseBits 8).pair ((parseBits 8).pair ((parseBits 8).list))))).map fun x => Instr.addUnicast x.1 x.2.1 x.2.2.1 x.2.2.2.1 x.2.2.2.2),
   (0x0F33, (parseNat.pair (parseInt.pair ((parseBits 8).pair ((parseBits 8).pair ((parseBits 8).list))))).map fun x => Instr.addBroadcast x.1 x.2.1 x.2.2.1 x.2.2.2.1 x.2.2.2.2),
   (0x0F34, (parseInt.pair ((parseBits 8))).map fun x => Instr.lookup x.1 x.2),
   (0x0F35, (parseDeviceType.pair parseInt).map fun x => Instr.actuatorIdOf x.1 x.2),
   (0x0F36, (parseInt.pair ((parseBits 16).list)).map fun x => Instr.decodeBuffer x.1 x.2),
   (0x0F37, parseInt.map Instr.decodeFrame),
   (0x0F38, parseDispatch),
   (0x0F39, parseNat.map Instr.clearBusList),
   (0x0F3A, (parseNat.pair ((parseBits 64))).map fun x => Instr.runCycle x.1 x.2),
   (0x0F3B, .nothing Instr.verifyResponses),
   (0x0F3C, (parseWarnKind.pair parseInt).map fun x => Instr.raise x.1 x.2),
   (0x0F3D, parseMapEntry.list.map Instr.loadConfiguration)]

/-- Every call word. -/
def callTable : List (Nat × Parser Instr) :=
  wordCalls ++ responseCalls ++ exceptionCalls ++ requestCalls ++ interfaceCalls

/-- The operand reader of a call word. -/
def operandParser (op : Nat) : List (Nat × Parser Instr) → Option (Parser Instr)
  | [] => none
  | (k, p) :: rows => if k = op then some p else operandParser op rows

/-- Decodes the instruction at the head of a word stream: the instruction and the words after it. -/
def decode : List Word → Except DecodeError (Instr × List Word)
  | [] => .error .empty
  | w :: ws =>
    if Machine.tag w = 0#4 then
      match operandParser w.toNat callTable with
      | some p => p ws
      | none => .error (.unknownCall w)
    else .ok (decodeTransport w, ws)

/-- The words of an instruction: `decode` reads a well-formed one back from them. -/
def encode (i : Instr) : List Word :=
  match i with
  | .txd b => [Machine.txdWord b]
  | .rxd b => [Machine.rxdWord b]
  | .tsw t => [Machine.tswWord t]
  | .eof => [Machine.eofWord]
  | .classTs w => [w]
  | .classEofw w => [w]
  | .classData w => if Machine.tag w = 0#4 then call 0x0F00 (encBits w) else [w]
  | .cwLength n => call 0x0F01 (encNat n)
  | .cwSwTrigger => call 0x0F02 []
  | .cwDelay d => call 0x0F03 (encNat d)
  | .cwTimestamp => call 0x0F04 []
  | .cwTriggerIrq => call 0x0F05 []
  | .rspFaReportServerID f => call 0x0011 (encRouted f)
  | .rspFaReportServerStatus f => call 0x0012 (encRouted f)
  | .rspFaChangeILCMode f => call 0x0041 (encRouted f)
  | .rspFaSetBoostValveDCAGains f => call 0x0049 (encRouted f)
  | .rspFaReadBoostValveDCAGains f => call 0x004A (encRouted f)
  | .rspFaForceDemand f => call 0x004B (encRouted f)
  | .rspFaPneumaticForceStatus f => call 0x004C (encRouted f)
  | .rspFaSetADCScanRate f => call 0x0050 (encRouted f)
  | .rspFaSetADCChannelOffsetAndSensitivity f => call 0x0051 (encRouted f)
  | .rspFaReset f => call 0x006B (encRouted f)
  | .rspFaReadCalibration f => call 0x006E (encRouted f)
  | .rspFaReportDCAPressure f => call 0x0077 (encRouted f)
  | .rspFaReportDCAID f => call 0x0078 (encRouted f)
  | .rspFaReportDCAStatus f => call 0x0079 (encRouted f)
  | .rspHaReportServerID f => call 0x0111 (encRouted f)
  | .rspHaReportServerStatus f => call 0x0112 (encRouted f)
  | .rspHaChangeILCMode f => call 0x0141 (encRouted f)
  | .rspHaStepMotor f => call 0x0042 (encRouted f)
  | .rspHaElectromechanicalForceAndStatus f => call 0x0043 (encRouted f)
  | .rspHaSetADCScanRate f => call 0x0150 (encRouted f)
  | .rspHaSetADCChannelOffsetAndSensitivity f => call 0x0151 (encRouted f)
  | .rspHaReset f => call 0x016B (encRouted f)
  | .rspHaReadCalibration f => call 0x016E (encRouted f)
  | .rspHmReportServerID f => call 0x0211 (encRouted f)
  | .rspHmReportServerStatus f => call 0x0212 (encRouted f)
  | .rspHmChangeILCMode f => call 0x0241 (encRouted f)
  | .rspHmReset f => call 0x026B (encRouted f)
  | .rspHmReportHMPressure f => call 0x0177 (encRouted f)
  | .rspHmReportHMMezzanineID f => call 0x0178 (encRouted f)
  | .rspHmReportHMMezzanineStatus f => call 0x0179 (encRouted f)
  | .rspHmReportLVDT f => call 0x007A (encRouted f)
  | .excFa145 f => call 0x0091 (encRouted f)
  | .excFa146 f => call 0x0092 (encRouted f)
  | .excFa193 f => call 0x00C1 (encRouted f)
  | .excFa201 f => call 0x00C9 (encRouted f)
  | .excFa202 f => call 0x00CA (encRouted f)
  | .excFa203 f => call 0x00CB (encRouted f)
  | .excFa204 f => call 0x00CC (encRouted f)
  | .excFa208 f => call 0x00D0 (encRouted f)
  | .excFa209 f => call 0x00D1 (encRouted f)
  | .excFa235 f => call 0x00EB (encRouted f)
  | .excFa238 f => call 0x00EE (encRouted f)
  | .excFa247 f => call 0x00F7 (encRouted f)
  | .excFa248 f => call 0x00F8 (encRouted f)
  | .excFa249 f => call 0x00F9 (encRouted f)
  | .excHa145 f => call 0x0191 (encRouted f)
  | .excHa146 f => call 0x0192 (encRouted f)
  | .excHa193 f => call 0x01C1 (encRouted f)
  | .excHa194 f => call 0x00C2 (encRouted f)
  | .excHa195 f => call 0x00C3 (encRouted f)
  | .excHa208 f => call 0x01D0 (encRouted f)
  | .excHa209 f => call 0x01D1 (encRouted f)
  | .excHa235 f => call 0x01EB (encRouted f)
  | .excHa238 f => call 0x01EE (encRouted f)
  | .excHm145 f => call 0x0291 (encRouted f)
  | .excHm146 f => call 0x0292 (encRouted f)
  | .excHm193 f => call 0x02C1 (encRouted f)
  | .excHm235 f => call 0x02EB (encRouted f)
  | .excHm247 f => call 0x01F7 (encRouted f)
  | .excHm248 f => call 0x01F8 (encRouted f)
  | .excHm249 f => call 0x01F9 (encRouted f)
  | .excHm250 f => call 0x00FA (encRouted f)
  | .reqReportServerID op s a p => call 0x0311 (encRequest op s a p)
  | .reqReportServerStatus op s a p => call 0x0312 (encRequest op s a p)
  | .reqChangeILCMode op s a p => call 0x0341 (encRequest op s a p)
  | .reqSetADCScanRate op s a p => call 0x0250 (encRequest op s a p)
  | .reqSetADCChannelOffsetAndSensitivity op s a p => call 0x0251 (encRequest op s a p)
  | .reqReset op s a p => call 0x036B (encRequest op s a p)
  | .reqReadCalibration op s a p => call 0x026E (encRequest op s a p)
  | .reqReportDCAPressure op s a p => call 0x0277 (encRequest op s a p)
  | .reqReportDCAID op s a p => call 0x0278 (encRequest op s a p)
  | .reqReportDCAStatus op s a p => call 0x0279 (encRequest op s a p)
  | .reqSetBoostValveDCAGains op s a p => call 0x0149 (encRequest op s a p)
  | .reqReadBoostValveDCAGains op s a p => call 0x014A (encRequest op s a p)
  | .reqStepMotor op s a p => call 0x0142 (encRequest op s a p)
  | .reqStepMotorBroadcast op s p => call 0x0F06 (encBroadcast op s p)
  | .reqForceDemandSingle op s a p => call 0x014B (encRequest op s a p)
  | .reqForceDemandDual op s a p => call 0x024B (encRequest op s a p)
  | .reqForceDemandBroadcast op s p => call 0x0F07 (encBroadcast op s p)
  | .reqPneumaticForceStatus op s a p => call 0x014C (encRequest op s a p)
  | .reqElectromechanicalForceAndStatus op s a p => call 0x0143 (encRequest op s a p)
  | .reqFreezeSensorValuesElectromechanical op s p => call 0x0F08 (encBroadcast op s p)
  | .reqFreezeSensorValuesPneumatic op s p => call 0x0F09 (encBroadcast op s p)
  | .reqReportLVDT op s a p => call 0x017A (encRequest op s a p)
  | .reqNopReportLVDT op s a p => call 0x0F0A (encRequest op s a p)
  | .reqReportHMPressure op s a p => call 0x0377 (encRequest op s a p)
  | .reqReportHMMezzanineID op s a p => call 0x0378 (encRequest op s a p)
  | .reqReportHMMezzanineStatus op s a p => call 0x0379 (encRequest op s a p)
  | .reset => call 0x0F10 []
  | .load ws => call 0x0F11 (encList encBits ws)
  | .writeU8 v => call 0x0F12 (encInt v)
  | .writeI8 v => call 0x0F13 (encInt v)
  | .writeU16 v => call 0x0F14 (encInt v)
  | .writeI16 v => call 0x0F15 (encInt v)
  | .writeI24 v => call 0x0F16 (encInt v)
  | .writeU32 v => call 0x0F17 (encInt v)
  | .writeI32 v => call 0x0F18 (encInt v)
  | .writeSGL p => call 0x0F19 (encBits p)
  | .readU8 => call 0x0F1A []
  | .readI8 => call 0x0F1B []
  | .readU16 => call 0x0F1C []
  | .readI16 => call 0x0F1D []
  | .readI24 => call 0x0F1E []
  | .readU32 => call 0x0F1F []
  | .readI32 => call 0x0F20 []
  | .readSGL => call 0x0F21 []
  | .writeEndOfFrame => call 0x0F22 []
  | .writeSoftwareTrigger => call 0x0F23 []
  | .writeDelay d => call 0x0F24 (encNat d)
  | .writeTimestamp => call 0x0F25 []
  | .writeTriggerIRQ => call 0x0F26 []
  | .writeLength n => call 0x0F27 (encNat n)
  | .endOfBuffer => call 0x0F28 []
  | .endOfFrame => call 0x0F29 []
  | .skipToNextFrame => call 0x0F2A []
  | .readTimestamp => call 0x0F2B []
  | .readCRC => call 0x0F2C []
  | .crc16 bytes => call 0x0F2D (encList encBits bytes)
  | .calculateCRC start length => call 0x0F2E (encNat start ++ encNat length)
  | .writeCRC length => call 0x0F2F (encNat length)
  | .checkFrameCRC fs n => call 0x0F30 (encNat fs ++ encNat n)
  | .encodeRequest a f payload => call 0x0F31 (encBits a ++ encBits f ++ encList encBits payload)
  | .addUnicast op s a f payload => call 0x0F32 (encNat op ++ encInt s ++ encBits a ++ encBits f ++ encList encBits payload)
  | .addBroadcast op s a f payload => call 0x0F33 (encNat op ++ encInt s ++ encBits a ++ encBits f ++ encList encBits payload)
  | .lookup s a => call 0x0F34 (encInt s ++ encBits a)
  | .actuatorIdOf dt i => call 0x0F35 (encNat (deviceTypeCode dt) ++ encInt i)
  | .decodeBuffer s ws => call 0x0F36 (encInt s ++ encList encBits ws)
  | .decodeFrame s => call 0x0F37 (encInt s)
  | .dispatch f fn => call 0x0F38 (encNat (deviceTypeCode f.ch.deviceType) ++ encRouted f ++ encBits fn)
  | .clearBusList op => call 0x0F39 (encNat op)
  | .runCycle op t => call 0x0F3A (encNat op ++ encBits t)
  | .verifyResponses => call 0x0F3B []
  | .raise kind aid => call 0x0F3C (encNat kind.code ++ encInt aid)
  | .loadConfiguration map => call 0x0F3D (encList encMapEntry map)

/-- The words of a number read as the table numbers an instruction's bits: bits 15..0 are the first word. -/
def wordsOfNat : Nat → Nat → List Word
  | 0, _ => []
  | k + 1, w => BitVec.ofNat 16 (w % 65536) :: wordsOfNat k (w / 65536)

/-- How many zero words are laid behind a table word: more than the operands of any call need when they
are all zero. -/
def operandPadding : Nat := 24

/-- The words of the instruction whose first `nbits` bits are `w` and whose other bits are 0. -/
def tableWords (nbits w : Nat) : List Word :=
  let ws := wordsOfNat ((nbits + 15) / 16) (w % 2 ^ nbits) ++ List.replicate operandPadding 0#16
  match decode ws with
  | .ok (_, rest) => ws.take (ws.length - rest.length)
  | .error _ => ws

/-- The instruction the decoder reads from a word of the table (log 2). -/
def decodeTableWord (nbits w : Nat) : Option Instr :=
  match decode (tableWords nbits w) with
  | .ok (i, _) => some i
  | .error _ => none

end Sys2Proof
end

