-- ==== Sys2Proof/Machine/State.lean ====
section
/-! DEFINITION. The state of the block: every piece of 10_state.md, and the model's own fields (INVENTORY.md,
"State"), with the machine right after reset (70_reset_and_hazards.md rules R370, R371). -/
namespace Sys2Proof.Machine

/-- The model faults (R348). Each stops the model for good. Safe: the block's source gives no behaviour there. -/
inductive Fault where
  /-- A read at an index at or past `len`, or a CRC span past `len`; raised by the wire-buffer reads (R47, R101).
  Safe. -/
  | bufferOverrun
  /-- A write at index P_BUF_WORDS, or a load longer than P_BUF_WORDS; raised by the writes and `load` (R47, R121).
  Safe. -/
  | bufferOverflow
  /-- `writeCRC` over a span longer than what was written, or holding a word that is no TX data word (R102).
  Safe. -/
  | crcSpanInvalid
  /-- A unicast item to an address with no map entry, or a broadcast item to an address other than 248 and 249;
  raised by the request encoder (R161, R162). Safe. -/
  | unmappedRequest
  /-- A P_ILC_MAP that breaks a constraint of R194; raised by loadConfiguration (R372). Safe. -/
  | configInvalid
  deriving DecidableEq, Repr, Inhabited

/-- Why the model takes no step. -/
inductive Refusal where
  /-- An instruction whose meaning is not written yet; raised by no arm. Safe. -/
  | notModelled (mnemonic : String)
  /-- A cycle request before the first successful configuration load (R374); raised by runCycle. Safe: "the model
  sets the refusal mark and takes no step". -/
  | notConfigured
  /-- A change of a bus list while a cycle that issues it holds the lock (R377); raised by the bus-list operations.
  Safe: the spec has the model refuse it. -/
  | busListLocked (op : Op)
  /-- The words at the call port decode to no instruction; raised by `step` (log 1). Safe. -/
  | undecodable (e : DecodeError)
  deriving DecidableEq, Repr, Inhabited

/-- The wire buffer's words by word index, in one canonical form (`Memory.wf`): indices strictly rising. An index
that is not listed holds no value (R12), so no entry can equal what an unlisted index reads as (log 34). -/
abbrev Memory := List (Nat × Word)

/-- Are the keys strictly rising? The canonical form of every keyed list of the state. -/
def keysRising {α : Type} : List (Nat × α) → Bool
  | [] => true
  | [_] => true
  | (a, _) :: (b, y) :: l => decide (a < b) && keysRising ((b, y) :: l)

/-- The canonical form of a memory. -/
def Memory.wf (m : Memory) : Bool := keysRising m

/-- The sequencer's position in a cycle (R20). -/
inductive Phase where
  | idle
  | issue
  | wait (s : SubnetNo)
  | decode (s : SubnetNo)
  | verify
  deriving DecidableEq, Repr, Inhabited

/-- One warning record (R23). `kind` is `none` only at reset. -/
structure WarnRec where
  timestamp : BitVec 64
  actuatorId : Int
  kind : Option WarnKind
  deriving DecidableEq, Repr, Inhabited

/-- One Bool for each axis of a force actuator (R28). -/
structure AxisFlags where
  primary : Bool
  secondary : Bool
  deriving DecidableEq, Repr, Inhabited

/-- What `lookup` returns (R190). -/
inductive LookupResult where
  | unknownSubnet
  | invalid
  | channel (c : ILCMap)
  deriving DecidableEq, Repr, Inhabited

/-- The values of a decoded frame, as the handler rules R254 to R284 name them. -/
inductive Fields where
  /-- functions 17 (R254) -/
  | serverID (id : List Byte)
  /-- function 18 (R255) -/
  | serverStatus (state status faults : Nat)
  /-- function 65 (R256) -/
  | mode (mode : Nat)
  /-- payload bytes with no field meaning (R251) -/
  | raw (bytes : List Byte)
  /-- FA function 74 (R258) -/
  | gains (gain0 gain1 : F32)
  /-- FA functions 75 and 76 (R259); an axis the channel does not contribute to is `none` (R252) -/
  | forces (status : Nat) (primary : F32) (secondary xForce yForce : Option F32) (zForce : F32)
  /-- function 110 (R264) -/
  | calibration (cal : List F32)
  /-- function 119 (R265, R281) -/
  | pressure (pressure : List F32)
  /-- function 121 (R267, R283) -/
  | statusBits (bits : Nat)
  /-- HA functions 66 and 67 (R271) -/
  | electromechanical (status : Nat) (encoder : Int) (measuredForce : F32) (displacement : Ratio)
  /-- HM function 122 (R284) -/
  | lvdt (lvdt0 lvdt1 : F32)
  deriving DecidableEq, Repr, Inhabited

/-- The decoded-frame record (R250). -/
structure FrameRecord where
  subnet : Int
  addr : Byte
  deviceType : DeviceType
  dataIndex : Int
  secondaryDataIndex : Int
  actuatorId : Int
  function : Byte
  timestamp : BitVec 64
  fields : Fields
  deriving DecidableEq, Repr, Inhabited

/-- The combined force-actuator fault-warning record: the OR of every channel's flags, with the per-channel
flags (R293). -/
structure Aggregate where
  anyFault : Bool
  limitFlags : List AxisFlags
  feFlags : List AxisFlags
  deriving DecidableEq, Repr, Inhabited

/-- One event on a collaborator port (R342, R304, R306). -/
inductive Event where
  | transportWrite (words : List Word) (count timeoutMs : Nat)
  | transportRead (subnet : Int) (count timeoutMs : Nat)
  | warning (w : WarnRec)
  | frame (r : FrameRecord)
  | forceActuatorWarning (a : Aggregate)
  | ilcCommunicationTimeout (any : Bool)
  | forceActuatorFollowingError (actuatorId : Int) (primary secondary : Bool)
  | hardpointActuatorLoadCellError (actuatorId : Int) (flag : Bool)
  | hardpointActuatorMeasuredForce (actuatorId : Int) (flag : Bool)
  | hardpointActuatorAirPressure (hardpointIndex : Int) (r : Int)
  deriving DecidableEq, Repr, Inhabited

/-- The value an operation returns to its caller; the block has no register to hold it (R26), so this is the
model's own (log 5). -/
inductive Ret where
  | nothing
  | bool (b : Bool)
  | int (i : Int)
  | word (w : Word)
  | float (p : F32)
  | stamp (t : BitVec 64)
  | words (ws : List Word)
  | found (r : LookupResult)
  | wordClass (c : WordClass)
  deriving DecidableEq, Repr, Inhabited

/-- The state of the machine. -/
structure State where
  /-- `buf` (R10, R12) -/
  buf : Memory
  /-- `len`, the number of valid words (R10) -/
  len : Nat
  /-- `idx`, the cursor (R11) -/
  idx : Nat
  /-- P_BUF_WORDS; no operation writes it (R10, log 9) -/
  capacity : Nat
  /-- `bcast_ctr` (R13) -/
  bcastCtr : BitVec 4
  /-- `bus_list[op]`: keys strictly rising, no empty list; an operation that is not listed has the empty
  list (R14) -/
  busLists : List (Nat × List Item)
  /-- `fa_exp` (R15) -/
  faExp : List Int
  /-- `ha_exp` (R15) -/
  haExp : List Int
  /-- `hm_exp` (R15) -/
  hmExp : List Int
  /-- `ilc_map` by 256 * (subnet - 1) + address, keys strictly rising; a key that is not listed is INVALID
  (R17, R191) -/
  ilcMap : List (Nat × ILCMap)
  /-- has a configuration load succeeded? (R370, R374, log 35) -/
  configured : Bool
  /-- the model's own: the parameters it takes as an argument (R4); no rule writes them (R19, R46, log 8) -/
  params : Params
  /-- `phase` (R20) -/
  phase : Phase
  /-- `signaled[1..5]` (R20) -/
  signaled : PerSubnet Bool
  /-- `any_timeout` (R20) -/
  anyTimeout : Bool
  /-- `t_cycle` (R20, R313) -/
  tCycle : BitVec 64
  /-- `cur_op` (R20) -/
  curOp : Op
  /-- `cycle_busy` (R21) -/
  cycleBusy : Bool
  /-- `fs` (R22) -/
  fs : Nat
  /-- `tail` (R22) -/
  tail : Nat
  /-- `n` (R22) -/
  n : Nat
  /-- `crc_calc` (R22) -/
  crcCalc : Word
  /-- `crc_rx` (R22) -/
  crcRx : Word
  /-- `ts` (R22) -/
  ts : BitVec 64
  /-- `addr` (R22) -/
  addr : Byte
  /-- `fn` (R22) -/
  fn : Byte
  /-- `ch`; `none` is INVALID (R22) -/
  ch : Option ILCMap
  /-- `warn_rec` (R23) -/
  warnRec : WarnRec
  /-- `limit_flag[i]` (R28) -/
  limitFlag : List AxisFlags
  /-- `fe_flag[i]` (R28) -/
  feFlag : List AxisFlags
  /-- the fault mark (R27, R348, log 23) -/
  faulted : Option Fault
  /-- the refusal mark (R27, log 23) -/
  refusalMark : Option Refusal
  /-- the model's own: how many free values have been taken so far (log 28) -/
  freeCount : Nat
  /-- the model's own: the inputs now (R24, log 7) -/
  env : Env
  /-- the model's own: the inputs of the coming steps (log 7) -/
  schedule : List Env
  /-- the model's own: the pending calls (log 1) -/
  port : List Word
  /-- the model's own: the events driven so far, oldest first (R25, log 6) -/
  out : List Event
  /-- the model's own: the value the last operation with a result returned (log 5) -/
  ret : Ret
  deriving DecidableEq, Repr

/-- The machine right after reset (R370, R371). The registers R371 calls unspecified hold zero (DESIGN CHOICE,
log 10), the parameters and the capacity are the model's arguments (log 8, log 9), the inputs open constants
(log 7). -/
def State.reset : State :=
  { buf := [], len := 0, idx := 0, capacity := Config.bufWordsPred + 1
    bcastCtr := 0, busLists := []
    faExp := List.replicate Config.params.nFA 0
    haExp := List.replicate Config.params.nHA 0
    hmExp := List.replicate Config.params.nHM 0
    ilcMap := [], configured := false, params := Config.params
    phase := .idle, signaled := ⟨false, false, false, false, false⟩, anyTimeout := false
    tCycle := 0, curOp := 0, cycleBusy := false
    fs := 0, tail := 0, n := 0, crcCalc := 0, crcRx := 0, ts := 0, addr := 0, fn := 0, ch := none
    warnRec := ⟨0, -1, none⟩
    limitFlag := List.replicate Config.params.nFA ⟨false, false⟩
    feFlag := List.replicate Config.params.nFA ⟨false, false⟩
    faulted := none, refusalMark := none, freeCount := 0
    env := Config.firstEnv, schedule := Config.laterEnvs
    port := [], out := [], ret := .nothing }

end Sys2Proof.Machine
end

