-- ==== Sys2Proof/Machine/Memory.lean ====
section
/-! DEFINITION. Keyed lists in canonical form, and the wire buffer's words as one (10_state.md rules R10, R12). -/
namespace Sys2Proof.Machine

/-- The value under a key. -/
def keyGet {α : Type} : List (Nat × α) → Nat → Option α
  | [], _ => none
  | (k, v) :: l, a => if k = a then some v else keyGet l a

/-- The list with the value under a key set; the keys stay strictly rising. -/
def keyPut {α : Type} : List (Nat × α) → Nat → α → List (Nat × α)
  | [], a, x => [(a, x)]
  | (k, v) :: l, a, x =>
    if a < k then (a, x) :: (k, v) :: l
    else if a = k then (a, x) :: l
    else (k, v) :: keyPut l a x

/-- The list with a key removed. -/
def keyDrop {α : Type} (l : List (Nat × α)) (a : Nat) : List (Nat × α) := l.filter fun p => p.1 != a

/-- The word at an index, if it holds a value (R12). -/
def Memory.read (m : Memory) (a : Nat) : Option Word := keyGet m a

/-- Stores one word (R50: a word is moved whole). -/
def Memory.write (m : Memory) (a : Nat) (w : Word) : Memory := keyPut m a w

/-- The words below an index; the rest hold no value any more (R12). -/
def Memory.below (m : Memory) (a : Nat) : Memory := m.filter fun p => p.1 < a

/-- The memory that holds `ws` at `a`, `a + 1`, … and nothing else. -/
def Memory.ofWords : Nat → List Word → Memory
  | _, [] => []
  | a, w :: ws => (a, w) :: Memory.ofWords (a + 1) ws

end Sys2Proof.Machine
end

