-- ==== Sys2Proof/Machine/Ops.lean ====
section
/-! DEFINITION. The named operations over the state: the wire buffer's words and cursor (41_wirebuffer.md), the
counters, bus lists and address map (10_state.md, 43_address_map.md), the ports, and raising a warning, the
block's one exception mechanism (60_exceptions.md rule R330). There is no return from a warning: execution goes on
(R346). -/
namespace Sys2Proof.Machine

/-- The outcome of an operation with no result: a model fault stops the machine (R348). -/
def outcome : Except Fault State → Host.Outcome State Fault Refusal
  | .ok s => .next s
  | .error f => .fault f

/-- The outcome of an operation that returns a value to its caller (log 5). -/
def answer {α : Type} (mk : α → Ret) : Except Fault (α × State) → Host.Outcome State Fault Refusal
  | .ok (v, s) => .next { s with ret := mk v }
  | .error f => .fault f

/-- Delivers one event to a collaborator port (R7, R54). -/
def State.emit (s : State) (e : Event) : State := { s with out := s.out ++ [e] }

/-- `raise K(aid)` (R330): the one shared operation by which a warning is taken. It overwrites `warn_rec`, stamps it
with `t_cycle` (R313), and publishes it at once; it moves no cursor, changes no counter and transfers no
control. -/
def raise (k : WarnKind) (aid : Int) (s : State) : State :=
  { s with warnRec := ⟨s.tCycle, aid, some k⟩ }.emit (.warning ⟨s.tCycle, aid, some k⟩)

/-- The word at an index, if the index is below `len` (R12, R47). -/
def wordAt (s : State) (i : Nat) : Option Word := if i < s.len then s.buf.read i else none

/-- The helper `putWord(w)` of 41_wirebuffer.md: one word at the cursor; the words past the new `len` hold no
value any more (R11, R12). -/
def putWord (w : Word) (s : State) : Except Fault State :=
  if s.capacity ≤ s.idx then .error .bufferOverflow
  else .ok { s with buf := (s.buf.write s.idx w).below (s.idx + 1), idx := s.idx + 1, len := s.idx + 1 }

/-- Several words at the cursor, in order. -/
def putWords : List Word → State → Except Fault State
  | [], s => .ok s
  | w :: ws, s =>
    match putWord w s with
    | .ok s => putWords ws s
    | .error f => .error f

/-- One TX data word per byte, in order (R61, R123). -/
def putBytes (bs : List Byte) (s : State) : Except Fault State := putWords (bs.map txdWord) s

/-- The helper `getByte()` of 41_wirebuffer.md: one data byte at the cursor; the tag is not checked (R66). -/
def getByte (s : State) : Except Fault (Byte × State) :=
  match wordAt s s.idx with
  | some w => .ok (byteOf w, { s with idx := s.idx + 1 })
  | none => .error .bufferOverrun

/-- `k` data bytes at the cursor, in word order. -/
def getBytes : Nat → State → Except Fault (List Byte × State)
  | 0, s => .ok ([], s)
  | k + 1, s =>
    match getByte s with
    | .error f => .error f
    | .ok (b, s) =>
      match getBytes k s with
      | .error f => .error f
      | .ok (bs, s) => .ok (b :: bs, s)

/-- `reset()`: the buffer is empty and no word keeps a readable value (R120). -/
def resetBuffer (s : State) : State := { s with buf := [], idx := 0, len := 0 }

/-- `load(words)`: the words are the RX buffer's content (R121). -/
def loadBuffer (ws : List Word) (s : State) : Except Fault State :=
  if s.capacity < ws.length then .error .bufferOverflow
  else .ok { s with buf := Memory.ofWords 0 ws, len := ws.length, idx := 0 }

/-- Is the word at index `i` of the given class? (R66) -/
def classAt (s : State) (i : Nat) (c : WordClass) : Bool :=
  match wordAt s i with
  | some w => decide (classify w = c)
  | none => false

/-- The first index from `j` on, below `j + fuel`, whose word is an end-of-frame word (R66). -/
def findEof (s : State) : Nat → Nat → Nat
  | 0, j => j
  | fuel + 1, j => if classAt s j .eofw then j else findEof s fuel (j + 1)

/-- The cursor position `skipToNextFrame` moves to (R147). -/
def nextFrame (s : State) : Nat :=
  let j := findEof s (s.len - s.idx) s.idx
  if j < s.len then j + 1 else j

/-- `skipToNextFrame()` (R147). -/
def skipToNextFrame (s : State) : State := { s with idx := nextFrame s }

/-- The timestamp bytes from index `i`: at most `fuel` consecutive timestamp words (R148). -/
def tsBytesAt (s : State) : Nat → Nat → List Byte
  | 0, _ => []
  | fuel + 1, i =>
    match wordAt s i with
    | some w => if classify w = .ts then tsByteOf w :: tsBytesAt s fuel (i + 1) else []
    | none => []

/-- `P_TS_WORDS` (D8). -/
def tsWords : Nat := 8

/-- `tsAt(t)`: the timestamp at index `t`, least significant byte first, missing bytes 0 (R45, R148, R215). -/
def tsAt (s : State) (t : Nat) : BitVec 64 := BitVec.ofNat 64 (le (tsBytesAt s tsWords t))

/-- `readTimestamp()` (R148). -/
def readTimestamp (s : State) : BitVec 64 × State :=
  (tsAt s s.idx, { s with idx := s.idx + (tsBytesAt s tsWords s.idx).length })

/-- The expected-response counters of a device type (R15). -/
def State.exp (s : State) : DeviceType → List Int
  | .fa => s.faExp
  | .ha => s.haExp
  | .hm => s.hmExp

/-- The state with the counters of a device type replaced. -/
def State.setExp (s : State) (dt : DeviceType) (l : List Int) : State :=
  match dt with
  | .fa => { s with faExp := l }
  | .ha => { s with haExp := l }
  | .hm => { s with hmExp := l }

/-- The array with `d` added to element `i`; an index outside the array changes nothing (log 20). -/
def addAt (l : List Int) (i d : Int) : List Int := if 0 ≤ i then l.modify i.toNat (· + d) else l

/-- Adds `d` to the counter of a channel (R220, R303). -/
def bumpExpected (ch : ILCMap) (d : Int) (s : State) : State :=
  s.setExp ch.deviceType (addAt (s.exp ch.deviceType) ch.dataIndex d)

/-- The key of the address map's entry (subnet, address): the map is stored zero-based by subnet (R17, R191). -/
def mapKey (s : Int) (a : Byte) : Nat := 256 * (s - 1).toNat + a.toNat

/-- `lookup(s, a)` (R190). -/
def lookup (sub : Int) (a : Byte) (s : State) : LookupResult :=
  if sub < 1 ∨ 5 < sub then .unknownSubnet
  else match keyGet s.ilcMap (mapKey sub a) with
    | some c => .channel c
    | none => .invalid

/-- `actuatorIdOf(dt, i)`: -1 where no entry has that device type and index (R195). -/
def actuatorIdOf (dt : DeviceType) (i : Int) (s : State) : Int :=
  match s.ilcMap.find? fun p => decide (p.2.deviceType = dt) && decide (p.2.dataIndex = i) with
  | some p => p.2.actuatorId
  | none => -1

/-- `bus_list[op]` (R14). -/
def busList (op : Op) (s : State) : List Item := (keyGet s.busLists op).getD []

/-- The state with `bus_list[op]` replaced. -/
def setBusList (op : Op) (items : List Item) (s : State) : State :=
  { s with busLists := if items.isEmpty then keyDrop s.busLists op else keyPut s.busLists op items }

/-- Does a cycle that issues `bus_list[op]` hold the lock? Then the list must not be changed (R55, R377). -/
def busListHeld (op : Op) (s : State) : Bool := s.cycleBusy && decide (s.curOp = op)

end Sys2Proof.Machine
end

