-- ==== Sys2Proof/Machine/Crc.lean ====
section
/-! DEFINITION. The CRC unit: CRC-16/Modbus (40_crc.md). -/
namespace Sys2Proof.Machine

/-- One step of the shift-right loop of R100. -/
def crcShift (c : Word) : Word := if c.getLsbD 0 then (c >>> 1) ^^^ 0xA001#16 else c >>> 1

/-- `k` steps of the loop. -/
def crcShifts : Nat → Word → Word
  | 0, c => c
  | k + 1, c => crcShifts k (crcShift c)

/-- One byte of the CRC: the byte is xored in, then eight shifts (R100). -/
def crcByte (c : Word) (b : Byte) : Word := crcShifts 8 (c ^^^ b.setWidth 16)

/-- `crc16(bytes)`: initial value 0xFFFF, no final xor (R100). -/
def crc16 (bs : List Byte) : Word := bs.foldl crcByte 0xFFFF#16

/-- The words at `start`, `start + 1`, …, `length` of them, if all are below `len` (R7 MemRead, R101). -/
def wordsAt (s : State) : Nat → Nat → Option (List Word)
  | _, 0 => some []
  | start, k + 1 =>
    match wordAt s start, wordsAt s (start + 1) k with
    | some w, some ws => some (w :: ws)
    | _, _ => none

/-- `calculateCRC(start, length)` (R101): it writes no state and does not move the cursor. -/
def calculateCRC (start length : Nat) (s : State) : Except Fault Word :=
  if s.len < start + length then .error .bufferOverrun
  else match wordsAt s start length with
    | some ws => .ok (crc16 (ws.map byteOf))
    | none => .error .bufferOverrun

/-- `writeCRC(length)` (R102): over the last `length` words written, all TX data words; appended low byte first
(R44). -/
def writeCRC (length : Nat) (s : State) : Except Fault State :=
  if s.idx < length then .error .crcSpanInvalid
  else match wordsAt s (s.idx - length) length with
    | none => .error .bufferOverrun
    | some ws =>
      if ws.all isTxd then
        let c := crc16 (ws.map byteOf)
        putBytes [c.extractLsb' 0 8, c.extractLsb' 8 8] s
      else .error .crcSpanInvalid

/-- The CRC that two words carry, the low byte first (R44, R214). -/
def crcOfWords (lo hi : Word) : Word := (byteOf lo).setWidth 16 ||| ((byteOf hi).setWidth 16 <<< 8)

/-- `crcOk(fs, n)` (R103, R214): it writes `crc_calc` and `crc_rx`, and does not move the cursor. A frame of fewer than
two data words has no last two bytes and no span before them: both values are free (log 28). -/
def checkFrameCRC (fs n : Nat) (s : State) : Except Fault (Bool × State) :=
  if n < 2 then
    let computed := Config.freeWord s.freeCount
    let received := Config.freeWord (s.freeCount + 1)
    .ok (decide (computed = received),
      { s with crcCalc := computed, crcRx := received, freeCount := s.freeCount + 2 })
  else
    match calculateCRC fs (n - 2) s with
    | .error f => .error f
    | .ok computed =>
      match wordAt s (fs + n - 2), wordAt s (fs + n - 1) with
      | some lo, some hi =>
        .ok (decide (computed = crcOfWords lo hi), { s with crcCalc := computed, crcRx := crcOfWords lo hi })
      | _, _ => .error .bufferOverrun

end Sys2Proof.Machine
end

