-- ==== Sys2Proof/Machine/Operands.lean ====
section
/-! DEFINITION. The operand forms of the block: every typed write and typed read of 41_wirebuffer.md §2 and §3, over
the value codecs of 30_encoding.md rule R73. -/
namespace Sys2Proof.Machine

/-- A typed integer write of `k` bytes, most significant first; an out-of-range value has its low bits written
(R73, D39). -/
def writeIntBE (k : Nat) (v : Int) (s : State) : Except Fault State := putBytes (beBytes k v) s

/-- `writeSGL` (R130). -/
def writeFloat (p : F32) (s : State) : Except Fault State := putBytes (floatBytes s.params.floatOrder p) s

/-- An unsigned read of `k` bytes, most significant first (R73). -/
def readUnsigned (k : Nat) (s : State) : Except Fault (Nat × State) :=
  match getBytes k s with
  | .ok (bs, s) => .ok (be bs, s)
  | .error f => .error f

/-- A signed read of `k` bytes, most significant first, in two's complement (R73). -/
def readSigned (k : Nat) (s : State) : Except Fault (Int × State) :=
  match getBytes k s with
  | .ok (bs, s) => .ok (sext (8 * k) (be bs), s)
  | .error f => .error f

/-- `readSGL()` (R138). -/
def readFloat (s : State) : Except Fault (F32 × State) :=
  match getBytes 4 s with
  | .ok (bs, s) => .ok (floatOf s.params.floatOrder bs, s)
  | .error f => .error f

/-- `k` consecutive `readSGL()`. -/
def readFloats : Nat → State → Except Fault (List F32 × State)
  | 0, s => .ok ([], s)
  | k + 1, s =>
    match readFloat s with
    | .error f => .error f
    | .ok (p, s) =>
      match readFloats k s with
      | .error f => .error f
      | .ok (ps, s) => .ok (p :: ps, s)

/-- `readCRC()`: two bytes, the low byte first (R44, R149). -/
def readCrcBytes (s : State) : Except Fault (Word × State) :=
  match getBytes 2 s with
  | .ok (bs, s) => .ok (BitVec.ofNat 16 (le bs), s)
  | .error f => .error f

end Sys2Proof.Machine
end

