-- ==== Sys2Proof/Machine/Flags.lean ====
section
/-! DEFINITION. The flags of the block (10_state.md rule R26): the computed predicates of the wire buffer, and the
cross-cutting checks (a) to (d) of 45_response_handlers.md §5 with the flags of rule R28. -/
namespace Sys2Proof.Machine

/-- `endOfBuffer()` (R145). -/
def endOfBuffer (s : State) : Bool := decide (s.len ≤ s.idx)

/-- `endOfFrame()` (R146). -/
def endOfFrame (s : State) : Bool := classAt s s.idx .eofw

/-- What a binary32 pattern stands for; `fin m` is the number m * 2^-149. -/
inductive FloatValue where
  | nan
  | inf (negative : Bool)
  | fin (m : Int)
  deriving DecidableEq, Repr, Inhabited

/-- The value of a binary32 pattern (IEEE-754 binary32, R43). -/
def floatValue (p : F32) : FloatValue :=
  let negative := p.getLsbD 31
  let e := (p.extractLsb' 23 8).toNat
  let m := (p.extractLsb' 0 23).toNat
  if e = 255 then (if m = 0 then .inf negative else .nan)
  else
    let magnitude : Nat := if e = 0 then m else (2 ^ 23 + m) * 2 ^ (e - 1)
    .fin (if negative then -(magnitude : Int) else magnitude)

/-- The denominator of a ratio. -/
def Ratio.den (q : Ratio) : Int := q.denPred + 1

/-- `F > q` in real arithmetic; false for a NaN (D40), true for plus infinity (log 39). -/
def floatAbove (p : F32) (q : Ratio) : Bool :=
  match floatValue p with
  | .nan => false
  | .inf negative => !negative
  | .fin m => decide (q.num * 2 ^ 149 < m * Ratio.den q)

/-- `F < q` in real arithmetic; false for a NaN (D40), true for minus infinity (log 39). -/
def floatBelow (p : F32) (q : Ratio) : Bool :=
  match floatValue p with
  | .nan => false
  | .inf negative => negative
  | .fin m => decide (m * Ratio.den q < q.num * 2 ^ 149)

/-- `|F - milli/1000| > q` in real arithmetic (R292); false for a NaN, true for an infinity (log 39). -/
def deviatesBeyond (p : F32) (milli : Int) (q : Ratio) : Bool :=
  match floatValue p with
  | .nan => false
  | .inf _ => true
  | .fin m => decide (q.num * 2 ^ 149 * 1000 < |m * 1000 - milli * 2 ^ 149| * Ratio.den q)

/-- The limits of a cylinder (P_FA_HI, P_FA_LO, P_FE_LIMIT). -/
def axisLimits (id : Int) (a : Axis) (s : State) : AxisLimits :=
  match s.params.axisLimits.find? fun r => decide (r.actuatorId = id) && decide (r.axis = a) with
  | some r => r.limits
  | none => Config.axisLimits id a

/-- `cmd(ch, axis)`, the last commanded force of a cylinder in thousandths (R291). -/
def commanded (ch : ILCMap) (a : Axis) (s : State) : Int :=
  match s.env.commands.find? fun c => decide (c.dataIndex = ch.dataIndex) && decide (c.axis = a) with
  | some c => c.milli
  | none => 0

/-- The flags of a force actuator; an index outside the array reads as false (log 20). -/
def flagsAt (l : List AxisFlags) (i : Int) : AxisFlags :=
  if 0 ≤ i then (l[i.toNat]?).getD ⟨false, false⟩ else ⟨false, false⟩

/-- The flag array with one element replaced; an index outside the array changes nothing (log 20). -/
def setFlagsAt (l : List AxisFlags) (i : Int) (f : AxisFlags) : List AxisFlags :=
  if 0 ≤ i then l.set i.toNat f else l

/-- Is one axis beyond its measured-force limits? (R290) -/
def beyondLimit (ch : ILCMap) (a : Axis) (p : F32) (s : State) : Bool :=
  let l := axisLimits ch.actuatorId a s
  floatAbove p l.hi || floatBelow p l.lo

/-- Does one axis have a following error? (R292) -/
def followingError (ch : ILCMap) (a : Axis) (p : F32) (s : State) : Bool :=
  deviatesBeyond p (commanded ch a s) (axisLimits ch.actuatorId a s).feLimit

/-- The flags of the axes present, by `test`; an axis that is not present keeps its flag (R290, R292). -/
def newFlags (old : AxisFlags) (test : Axis → F32 → Bool) (primary : F32) (secondary : Option F32) : AxisFlags :=
  { primary := test .primary primary
    secondary := match secondary with
      | some p => test .secondary p
      | none => old.secondary }

/-- The combined force-actuator fault-warning record (R293). -/
def aggregate (s : State) : Aggregate :=
  { anyFault := s.limitFlag.any (fun f => f.primary || f.secondary) || s.feFlag.any (fun f => f.primary || f.secondary)
    limitFlags := s.limitFlag
    feFlags := s.feFlag }

/-- Checks (a) and (b) of one FA 75 or 76 frame (R290, R292, R293): the flags of the axes present are renewed, the
aggregate is republished once if a flag of the block changed, "and never when nothing changed" (R293), and the
following error is reported once. The republication stands before the report: "the handler then reports once per frame"
(log 22). DESIGN CHOICE (log 20): a channel whose index lies outside a flag array has no flag there, so the check
changes none and asks for no republication; its report is made as always. -/
def checkForces (ch : ILCMap) (primary : F32) (secondary : Option F32) (s : State) : State :=
  let limit := newFlags (flagsAt s.limitFlag ch.dataIndex) (fun a p => beyondLimit ch a p s) primary secondary
  let fe := newFlags (flagsAt s.feFlag ch.dataIndex) (fun a p => followingError ch a p s) primary secondary
  let s1 := { s with
    limitFlag := setFlagsAt s.limitFlag ch.dataIndex limit
    feFlag := setFlagsAt s.feFlag ch.dataIndex fe }
  let s2 := if s1.limitFlag = s.limitFlag ∧ s1.feFlag = s.feFlag then s1
    else s1.emit (.forceActuatorWarning (aggregate s1))
  s2.emit (.forceActuatorFollowingError ch.actuatorId fe.primary (secondary.isSome && fe.secondary))

/-- `P_STATE_FAMILY` of the detailed state (R294, R295). -/
def stateFamily (s : State) : Family :=
  match s.params.stateFamily.find? fun p => p.1 = s.env.detailedState with
  | some p => p.2
  | none => .other

/-- Check (c), the hardpoint load cell (R294). -/
def checkLoadCell (ch : ILCMap) (measuredForce : F32) (s : State) : State :=
  let lcErr := floatAbove measuredForce s.params.lcHi || floatBelow measuredForce s.params.lcLo
  let outOfBand :=
    if stateFamily s = .active then
      if s.env.forceBalance then
        floatAbove measuredForce s.params.lcFbHi || floatBelow measuredForce s.params.lcFbLo
      else floatAbove measuredForce s.params.lcActiveHi || floatBelow measuredForce s.params.lcActiveLo
    else false
  (s.emit (.hardpointActuatorLoadCellError ch.actuatorId lcErr)).emit
    (.hardpointActuatorMeasuredForce ch.actuatorId outOfBand)

/-- The low and high air-pressure thresholds of a family (R295); `none` where the check is skipped. -/
def airThresholds (s : State) : Option (Ratio × Ratio) :=
  match stateFamily s with
  | .raising => some (s.params.airpLoRaising, s.params.airpHiRaising)
  | .active => some (s.params.airpLoActive, s.params.airpHiActive)
  | .lowering => some (s.params.airpLoLowering, s.params.airpHiLowering)
  | .other => none

/-- Check (d), hardpoint air pressure (R295). -/
def checkAirPressure (ch : ILCMap) (p : F32) (s : State) : State :=
  let r : Int :=
    match airThresholds s with
    | none => 0
    | some (lo, hi) => if floatBelow p lo then -1 else if floatAbove p hi then 1 else 0
  s.emit (.hardpointActuatorAirPressure ch.dataIndex r)

end Sys2Proof.Machine
end

