-- ==== Sys2Proof/Machine/Handlers.lean ====
section
/-! DEFINITION. The response payload lengths (30_encoding.md rule R81), the function sets (R74 to R80), and the handlers'
field reads, conversions and checks (45_response_handlers.md rules R250 to R284). -/
namespace Sys2Proof.Machine

/-- A handler's work on the payload at the cursor: its field values, with its checks made (R296). -/
abbrev Reader := Routed → State → Except Fault (Fields × State)

/-- The success function codes of a device type (R74, R76, R78). -/
def successSet : DeviceType → List Nat
  | .fa => [17, 18, 65, 73, 74, 75, 76, 80, 81, 107, 110, 119, 120, 121]
  | .ha => [17, 18, 65, 66, 67, 80, 81, 107, 110]
  | .hm => [17, 18, 65, 107, 119, 120, 121, 122]

/-- The exception function codes of a device type (R75, R77, R79). -/
def exceptionSet : DeviceType → List Nat
  | .fa => [145, 146, 193, 201, 202, 203, 204, 208, 209, 235, 238, 247, 248, 249]
  | .ha => [145, 146, 193, 194, 195, 208, 209, 235, 238]
  | .hm => [145, 146, 193, 235, 247, 248, 249, 250]

/-- Is a force actuator single-axis, by the frame's address byte? (R196) -/
def singleAxis (addr : Byte) : Bool := decide (addr.toNat ≤ 16)

/-- `P_RESP_LEN(dt, fn, addr)` of a success response (R81). -/
def respLen (p : Params) (fn : Nat) (addr : Byte) : Nat :=
  if fn = 17 then p.len17
  else if fn = 18 then p.len18
  else if fn = 65 then p.len65
  else if fn = 73 then p.len73
  else if fn = 74 then 8
  else if fn = 75 ∨ fn = 76 then (if singleAxis addr then 5 else 9)
  else if fn = 80 then p.len80
  else if fn = 81 then p.len81
  else if fn = 107 then p.len107
  else if fn = 110 then 96
  else if fn = 119 then 16
  else if fn = 120 then p.len120
  else if fn = 121 then p.len121
  else if fn = 66 ∨ fn = 67 then 9
  else 8

/-- The decoded-frame record of a handler (R250). -/
def frameRecord (f : Routed) (fn : Nat) (fields : Fields) : FrameRecord :=
  { subnet := f.subnet, addr := f.addr, deviceType := f.ch.deviceType, dataIndex := f.ch.dataIndex
    secondaryDataIndex := f.ch.secondaryDataIndex, actuatorId := f.ch.actuatorId
    function := BitVec.ofNat 8 fn, timestamp := f.ts, fields := fields }

/-- The success path of one response (R222): the length check, then the handler, then its record (R250, R296). -/
def respond (fn : Nat) (h : Reader) (f : Routed) (s : State) : Except Fault State :=
  if f.k = respLen s.params fn f.addr then
    match h f s with
    | .ok (fields, s) => .ok (s.emit (.frame (frameRecord f fn fields)))
    | .error e => .error e
  else .ok (raise .invalidLength f.ch.actuatorId s)

/-- The warning an exception byte classifies (R223, D13). -/
def exceptionKind (e : Byte) : WarnKind :=
  if e = 1#8 then .illegalFunction else if e = 3#8 then .illegalDataValue else .unknownProblem

/-- The exception path of one response (R223). -/
def respondException (f : Routed) (s : State) : Except Fault State :=
  if f.k = 1 then
    match getByte s with
    | .ok (e, s) => .ok (raise (exceptionKind e) f.ch.actuatorId s)
    | .error x => .error x
  else .ok (raise .invalidLength f.ch.actuatorId s)

/-- The k payload bytes with no field meaning (R251). -/
def readRaw : Reader := fun f s =>
  match getBytes f.k s with
  | .ok (bs, s) => .ok (.raw bs, s)
  | .error e => .error e

/-- ReportServerID: the id block of k bytes, 12 by default (R254, log 21). -/
def readServerID : Reader := fun f s =>
  match getBytes f.k s with
  | .ok (bs, s) => .ok (.serverID bs, s)
  | .error e => .error e

/-- ReportServerStatus (R255): three U16 in 6 bytes; a one-byte state before two U16 in 5 (U19); any other overridden
length has no given layout and is passed on raw (R251, log 21). -/
def readServerStatus : Reader := fun f s =>
  if f.k = 6 ∨ f.k = 5 then
    match readUnsigned (f.k - 4) s with
    | .error e => .error e
    | .ok (state, s) =>
      match readUnsigned 2 s with
      | .error e => .error e
      | .ok (status, s) =>
        match readUnsigned 2 s with
        | .error e => .error e
        | .ok (faults, s) => .ok (.serverStatus state status faults, s)
  else readRaw f s

/-- ChangeILCMode: the echoed mode, k bytes, most significant first (R256). -/
def readMode : Reader := fun f s =>
  match readUnsigned f.k s with
  | .ok (m, s) => .ok (.mode m, s)
  | .error e => .error e

/-- ReadBoostValveDCAGains: two SGL (R258). -/
def readGains : Reader := fun _ s =>
  match readFloat s with
  | .error e => .error e
  | .ok (g0, s) =>
    match readFloat s with
    | .error e => .error e
    | .ok (g1, s) => .ok (.gains g0 g1, s)

/-- The mirror-frame forces of a frame (R252): the dual-axis or the single-axis conversion, an axis written only
where the channel contributes to it. -/
def forceFields (ch : ILCMap) (status : Nat) (primary : F32) (secondary : Option F32) : Fields :=
  match secondary with
  | some p =>
    let xyz := Config.forceConv ch.orientation primary p
    .forces status primary secondary
      (if ch.xDataIndex = -1 then none else some xyz.1)
      (if ch.yDataIndex = -1 then none else some xyz.2.1) xyz.2.2
  | none => .forces status primary none none none (Config.forceConvSingle primary)

/-- ForceDemand and PneumaticForceStatus (R259, R260): status, primary and, for a dual-axis address, secondary
force; then the conversion; then checks (a) and (b). -/
def readForces : Reader := fun f s =>
  match readUnsigned 1 s with
  | .error e => .error e
  | .ok (status, s) =>
    match readFloat s with
    | .error e => .error e
    | .ok (primary, s) =>
      if singleAxis f.addr then
        .ok (forceFields f.ch status primary none, checkForces f.ch primary none s)
      else
        match readFloat s with
        | .error e => .error e
        | .ok (p, s) => .ok (forceFields f.ch status primary (some p), checkForces f.ch primary (some p) s)

/-- ReadCalibration: 24 SGL (R264). -/
def readCalibration : Reader := fun _ s =>
  match readFloats 24 s with
  | .ok (ps, s) => .ok (.calibration ps, s)
  | .error e => .error e

/-- ReportDCAPressure: 4 SGL (R265). -/
def readPressure : Reader := fun _ s =>
  match readFloats 4 s with
  | .ok (ps, s) => .ok (.pressure ps, s)
  | .error e => .error e

/-- ReportHMPressure: 4 SGL, then check (d) on the one P_AIRP_INDEX names (R281, R295). -/
def readPressureChecked : Reader := fun f s =>
  match readFloats 4 s with
  | .ok (ps, s) => .ok (.pressure ps, checkAirPressure f.ch (ps.getD s.params.airpIndex.val 0#32) s)
  | .error e => .error e

/-- The status bitfields: an unsigned integer of k bytes, most significant first (R267, R283). -/
def readStatusBits : Reader := fun f s =>
  match readUnsigned f.k s with
  | .ok (m, s) => .ok (.statusBits m, s)
  | .error e => .error e

/-- binary32 negation: the sign bit is flipped (R253). -/
def negateFloat (p : F32) : F32 := p ^^^ 0x80000000#32

/-- `encoder × P_UM_PER_COUNT`, exact (R253, log 18). -/
def displacement (encoder : Int) (s : State) : Ratio :=
  ⟨encoder * s.params.umPerCount.num, s.params.umPerCount.denPred⟩

/-- StepMotor and ElectromechanicalForceAndStatus (R271, R272): status, encoder and force, the conversion of R253,
then check (c). -/
def readElectromechanical : Reader := fun f s =>
  match readUnsigned 1 s with
  | .error e => .error e
  | .ok (status, s) =>
    match readSigned 4 s with
    | .error e => .error e
    | .ok (encoderRaw, s) =>
      match readFloat s with
      | .error e => .error e
      | .ok (forceRaw, s) =>
        .ok (.electromechanical status (-encoderRaw) (negateFloat forceRaw) (displacement (-encoderRaw) s),
          checkLoadCell f.ch (negateFloat forceRaw) s)

/-- ReportLVDT: 2 SGL (R284). -/
def readLvdt : Reader := fun _ s =>
  match readFloat s with
  | .error e => .error e
  | .ok (l0, s) =>
    match readFloat s with
    | .error e => .error e
    | .ok (l1, s) => .ok (.lvdt l0 l1, s)

/-- The handler `H(dt, fn)` of a success function code (R74, R76, R78). -/
def handlerOf (dt : DeviceType) (fn : Nat) : Reader :=
  if fn = 17 then readServerID
  else if fn = 18 then readServerStatus
  else if fn = 65 then readMode
  else if fn = 74 then readGains
  else if fn = 75 ∨ fn = 76 then readForces
  else if fn = 110 then readCalibration
  else if fn = 119 then (if dt = .hm then readPressureChecked else readPressure)
  else if fn = 121 then readStatusBits
  else if fn = 66 ∨ fn = 67 then readElectromechanical
  else if fn = 122 then readLvdt
  else readRaw

/-- `dispatch(ch, s, addr, fn, k, ts)` in the precedence of R80: success, exception, UnknownFunction (R221 to
R224). -/
def dispatchFrame (f : Routed) (fn : Byte) (s : State) : Except Fault State :=
  if fn.toNat ∈ successSet f.ch.deviceType then
    respond fn.toNat (handlerOf f.ch.deviceType fn.toNat) f s
  else if fn.toNat ∈ exceptionSet f.ch.deviceType then respondException f s
  else .ok (raise .unknownFunction f.ch.actuatorId s)

end Sys2Proof.Machine
end

