-- ==== Sys2Proof/Machine/Validator.lean ====
section
/-! DEFINITION. The response validator: one frame and one buffer (44_response_decoder.md rules R210 to R230). The
working registers of 10_state.md rule R22 are written as each step makes them, and the later steps read them. -/
namespace Sys2Proof.Machine

/-- The first index from `j` on, below `j + fuel`, whose word ends the frame's data: a timestamp or an end-of-frame
word (R211, D10). -/
def findTail (s : State) : Nat → Nat → Nat
  | 0, j => j
  | fuel + 1, j => if classAt s j .ts || classAt s j .eofw then j else findTail s fuel (j + 1)

/-- The scan for the tail: it writes `fs`, `tail` and `n` and does not move the cursor (R211, C14). -/
def locateTail (s : State) : State :=
  let t := findTail s (s.len - s.idx) s.idx
  { s with fs := s.idx, tail := t, n := t - s.idx }

/-- A frame that ends with a warning: the warning, then the skip (R211). -/
def endWith (k : WarnKind) (s : State) : State := skipToNextFrame (raise k (-1) s)

/-- `decrementExpected(ch)` (R220). -/
def decrementExpected (ch : ILCMap) (s : State) : State := bumpExpected ch (-1) s

/-- The alternative of 93_implementation_defined.md item I2, off by default (R229): the channel at the unverified
address is decremented if it is mapped (log 29). -/
def decrementUnverified (sub : Int) (s : State) : State :=
  if s.params.decrOnBadCrc then
    match wordAt s s.fs with
    | some w =>
      match lookup sub (byteOf w) s with
      | .channel ch => decrementExpected ch s
      | _ => s
    | none => s
  else s

/-- From the address and function bytes on (R217 to R225), the CRC being good. -/
def routeFrame (sub : Int) (s : State) : Except Fault State :=
  match getByte s with
  | .error f => .error f
  | .ok (a, s) =>
    match getByte s with
    | .error f => .error f
    | .ok (fn, s) =>
      let s := { s with addr := a, fn := fn }
      match lookup sub s.addr s with
      | .unknownSubnet => .ok (endWith .unknownSubnet s)
      | .invalid => .ok (endWith .unknownAddress { s with ch := none })
      | .channel ch =>
        let s := decrementExpected ch { s with ch := some ch }
        match dispatchFrame ⟨ch, sub, s.addr, s.n - 4, s.ts⟩ s.fn s with
        | .ok s => .ok (skipToNextFrame s)
        | .error f => .error f

/-- `decodeFrame(s)` (R211). -/
def decodeOneFrame (sub : Int) (s : State) : Except Fault State :=
  let s := locateTail s
  if s.len ≤ s.tail || classAt s s.tail .eofw then .ok (endWith .invalidLength s)
  else if s.n < 4 then .ok (endWith .invalidLength s)
  else
    match checkFrameCRC s.fs s.n s with
    | .error f => .error f
    | .ok (_, s) =>
      let s := { s with ts := tsAt s s.tail }
      if s.crcCalc = s.crcRx then routeFrame sub s
      else .ok (skipToNextFrame (decrementUnverified sub (raise .invalidCRC (-1) s)))

/-- The loop of `decodeBuffer` (R210); every frame moves the cursor on (R227), so `len` turns are enough. -/
def decodeFrames (sub : Int) : Nat → State → Except Fault State
  | 0, s => .ok s
  | fuel + 1, s =>
    if endOfBuffer s then .ok s
    else match decodeOneFrame sub s with
      | .ok s => decodeFrames sub fuel s
      | .error f => .error f

/-- `decodeBuffer(s, words)` (R210). -/
def decodeWholeBuffer (sub : Int) (ws : List Word) (s : State) : Except Fault State :=
  match loadBuffer ws s with
  | .ok s => decodeFrames sub s.len s
  | .error f => .error f

end Sys2Proof.Machine
end

