-- ==== Sys2Proof/Machine/Sequencer.lean ====
section
/-! DEFINITION. The transaction sequencer (46_transaction_sequencer.md). A cycle is a walk through the phases of rule
R20; `advance` is one phase, and `runCycle` takes a whole cycle (log 24). -/
namespace Sys2Proof.Machine

/-- One counter's turn of `verifyResponses` when it is not 0 (R308). -/
def timeOut (dt : DeviceType) (i : Nat) (s : State) : State :=
  let s := raise .responseTimeout (actuatorIdOf dt i s) s
  { s.setExp dt ((s.exp dt).set i 0) with anyTimeout := true }

/-- `verifyResponses` over the counters `cs`, the first of which has index `i` (R308). -/
def verifyFrom (dt : DeviceType) : Nat → List Int → State → State
  | _, [], s => s
  | i, c :: cs, s => verifyFrom dt (i + 1) cs (if c = 0 then s else timeOut dt i s)

/-- `verifyResponses` for one device type. -/
def verifyType (dt : DeviceType) (s : State) : State := verifyFrom dt 0 (s.exp dt) s

/-- `verifyResponses()`: FA, HA, HM, each by ascending dataIndex (R308, D18). -/
def verifyAll (s : State) : State := verifyType .hm (verifyType .ha (verifyType .fa s))

/-- The counter increments of an issue (R303). -/
def issueItems : List Item → State → State
  | [], s => s
  | it :: items, s =>
    issueItems items
      (match it.expects, it.channel with
       | true, some ch => bumpExpected ch 1 s
       | _, _ => s)

/-- The first item for a subnet, and the others. -/
def takeFirstFor (sub : Int) : List Item → Option (Item × List Item)
  | [] => none
  | it :: items =>
    if it.subnet = sub then some (it, items)
    else match takeFirstFor sub items with
      | some (x, rest) => some (x, it :: rest)
      | none => none

/-- The control words P_ASSEMBLE puts at a place of the run order (R300). -/
def assembledControls (all : List Item) (place : Nat) : List Word :=
  (Config.assembleControls all place).map controlWord

/-- The runs of `waiting` from a place on: each run is one item's words, and of the items of one subnet the first
waiting one comes first. -/
def assembleFrom (all : List Item) : Nat → Nat → List Item → List Word
  | 0, place, _ => assembledControls all place
  | fuel + 1, place, waiting =>
    match waiting[Config.assemblePick all place % waiting.length]? with
    | none => assembledControls all place
    | some picked =>
      match takeFirstFor picked.subnet waiting with
      | none => assembledControls all place
      | some (it, rest) => assembledControls all place ++ it.words ++ assembleFrom all fuel (place + 1) rest

/-- `P_ASSEMBLE(bus_list[op])` (R300): every item's words as one contiguous run, the item order of each subnet kept,
only control words added; all else is open (log 15). An empty bus list is assembled to no words, so that its cycle
"issues nothing" (R374, log 40). -/
def assemble (items : List Item) : List Word :=
  match items with
  | [] => []
  | _ :: _ => assembleFrom items items.length 0 items

/-- The start of a cycle (R301): the lock is taken, the cycle's registers are set. -/
def beginCycle (op : Op) (t : BitVec 64) (s : State) : State :=
  { s with
    cycleBusy := true, curOp := op, tCycle := t, anyTimeout := false
    signaled := ⟨false, false, false, false, false⟩, phase := .issue }

/-- The Issue phase (R301, R303, R304): the counters go up, the whole assembled sequence is written by one
`Transport.write`, for an empty bus list too (log 40); the buffer is freshly reset (R314, R373, log 13). The write's
outcome is not acted on (R304). -/
def issuePhase (s : State) : State :=
  let items := busList s.curOp s
  (issueItems items (resetBuffer s)).emit
    (.transportWrite (assemble items) (assemble items).length s.params.writeTimeoutMs)

/-- The phase after subnet `n` has been processed: the next subnet's wait, or verification (R301). -/
def phaseAfter (n : SubnetNo) : Phase :=
  match n.next? with
  | some m => .wait m
  | none => .verify

/-- The words a transport read returns: at most P_BUF_WORDS of them (R306, D21, log 25). -/
def received (n : SubnetNo) (s : State) : List Word := (s.env.rx.get n).take s.capacity

/-- The Decode phase of a subnet (R306): one read, one load, one decode. -/
def decodePhase (n : SubnetNo) (s : State) : Except Fault State :=
  decodeWholeBuffer n.num (received n s)
    (s.emit (.transportRead n.num (received n s).length s.params.readTimeoutMs))

/-- The Verify phase and the end of the cycle (R308, R309, R310). -/
def verifyPhase (s : State) : State :=
  let s := verifyAll s
  { s.emit (.ilcCommunicationTimeout s.anyTimeout) with phase := .idle, cycleBusy := false }

/-- One phase of the running cycle (R301); in Idle there is nothing to do. -/
def advance (s : State) : Except Fault State :=
  match s.phase with
  | .idle => .ok s
  | .issue => .ok { issuePhase s with phase := .wait .one }
  | .wait n =>
    .ok { s with
      signaled := s.signaled.set n (s.env.signal.get n)
      phase := if s.env.signal.get n then .decode n else phaseAfter n }
  | .decode n =>
    match decodePhase n s with
    | .ok s => .ok { s with phase := phaseAfter n }
    | .error f => .error f
  | .verify => .ok (verifyPhase s)

/-- Up to `k` phases of the running cycle, until it is over. -/
def advanceMany : Nat → State → Except Fault State
  | 0, s => .ok s
  | k + 1, s =>
    match advance s with
    | .ok s => advanceMany k s
    | .error f => .error f

/-- The most phases a cycle takes: one issue, five waits, five decodes, one verification (R301). -/
def cyclePhases : Nat := 12

/-- A whole cycle from its start to the release of the lock (R301). -/
def wholeCycle (op : Op) (t : BitVec 64) (s : State) : Except Fault State :=
  advanceMany cyclePhases (beginCycle op t s)

/-- `hold until` (R7): the call stays at the head of the queue while the control thread goes on with the running
cycle (R302, R372, log 24). -/
def hold (i : Instr) (s : State) : Host.Outcome State Fault Refusal :=
  match advance s with
  | .ok s => .next { s with port := encode i ++ s.port }
  | .error f => .fault f

/-- Is the orientation one of the four values? (R194 constraint 7) -/
def orientationListed : Orientation → Bool
  | .plusX | .minusX | .plusY | .minusY => true
  | .other _ => false

/-- One entry of P_ILC_MAP meets constraints 1 to 4 and 7 of R194 and has a place in the table (log 33). -/
def entryAdmitted (e : MapEntry) : Bool :=
  let a := e.address.toNat
  let placed := decide (1 ≤ e.subnet) && decide (e.subnet ≤ 5)
  placed && orientationListed e.channel.orientation && match e.channel.deviceType with
    | .fa => decide (1 ≤ a) && decide (a ≤ 46) && decide (e.channel.secondaryDataIndex = -1 ↔ a ≤ 16)
    | .ha => decide (1 ≤ a) && decide (a ≤ 6)
    | .hm => decide (84 ≤ a) && decide (a ≤ 89) && decide (e.subnet = 5)

/-- P_N_FA, P_N_HA, P_N_HM. -/
def channelCount (p : Params) : DeviceType → Nat
  | .fa => p.nFA
  | .ha => p.nHA
  | .hm => p.nHM

/-- Two entries do not share an address of a subnet, nor a dataIndex of a device type (R194 constraints 5, 6). -/
def entriesApart (e e' : MapEntry) : Bool :=
  !(decide (e.subnet = e'.subnet) && decide (e.address = e'.address)) &&
    !(decide (e.channel.deviceType = e'.channel.deviceType) && decide (e.channel.dataIndex = e'.channel.dataIndex))

/-- Every two entries of the list are apart. -/
def allApart : List MapEntry → Bool
  | [] => true
  | e :: es => es.all (entriesApart e) && allApart es

/-- Does P_ILC_MAP meet the seven constraints of R194? -/
def mapAdmitted (p : Params) (es : List MapEntry) : Bool :=
  es.all (fun e => entryAdmitted e && decide (0 ≤ e.channel.dataIndex) &&
    decide (e.channel.dataIndex < channelCount p e.channel.deviceType)) && allApart es

/-- The table built from P_ILC_MAP (R193). -/
def buildMap (es : List MapEntry) : List (Nat × ILCMap) :=
  es.foldl (fun m e => keyPut m (mapKey e.subnet e.address) e.channel) []

/-- `loadConfiguration(P_ILC_MAP, parameters)` with no cycle running (R372). The model has fixed every parameter of R4
already (log 8), so the load builds the map and sets the counters to 0. -/
def loadConfig (es : List MapEntry) (s : State) : Except Fault State :=
  if mapAdmitted s.params es then
    .ok { s with
      ilcMap := buildMap es, configured := true
      faExp := List.replicate s.params.nFA 0, haExp := List.replicate s.params.nHA 0
      hmExp := List.replicate s.params.nHM 0 }
  else .error .configInvalid

end Sys2Proof.Machine
end

