-- ==== Sys2Proof/Machine/AddressMap.lean ====
section
/-! DEFINITION. The meanings of the address map's operations (43_address_map.md) and of the configuration load
(70_reset_and_hazards.md rule R372). -/
namespace Sys2Proof.Machine

/-- `lookup(s, a)` (R190). -/
def execLookup (s : Int) (a : Byte) (st : State) : Host.Outcome State Fault Refusal :=
  .next { st with ret := .found (lookup s a st) }

/-- `actuatorIdOf(dt, i)` (R195). -/
def execActuatorIdOf (dt : DeviceType) (i : Int) (st : State) : Host.Outcome State Fault Refusal :=
  .next { st with ret := .int (actuatorIdOf dt i st) }

/-- `loadConfiguration(P_ILC_MAP, parameters)`: "A request made during a cycle holds until the cycle ends" (R372). -/
def execLoadConfiguration (map : List MapEntry) (st : State) : Host.Outcome State Fault Refusal :=
  if st.phase = .idle ∧ st.cycleBusy = false then outcome (loadConfig map st)
  else hold (.loadConfiguration map) st

end Sys2Proof.Machine
end

