-- ==== Sys2Proof/Machine/CrcUnit.lean ====
section
/-! DEFINITION. The meanings of the CRC unit's operations (40_crc.md rules R100 to R103). -/
namespace Sys2Proof.Machine

/-- `crc16(bytes)` (R100). -/
def execCrc16 (bytes : List Byte) (st : State) : Host.Outcome State Fault Refusal :=
  .next { st with ret := .word (crc16 bytes) }

/-- `calculateCRC(start, length)` (R101). -/
def execCalculateCRC (start length : Nat) (st : State) : Host.Outcome State Fault Refusal :=
  answer .word ((calculateCRC start length st).map fun c => (c, st))

/-- `writeCRC(length)` (R102). -/
def execWriteCRC (length : Nat) (st : State) : Host.Outcome State Fault Refusal :=
  outcome (writeCRC length st)

/-- `crcOk(fs, n)` (R103). -/
def execCheckFrameCRC (fs n : Nat) (st : State) : Host.Outcome State Fault Refusal :=
  answer .bool (checkFrameCRC fs n st)

end Sys2Proof.Machine
end

