-- ==== Sys2Proof/Machine/Encoder.lean ====
section
/-! DEFINITION. The request encoder: one request frame, and the items of a bus list (42_request_encoder.md rules R160
to R163). -/
namespace Sys2Proof.Machine

/-- `encodeRequest(a, f, payload)` in a fresh buffer (R160): the words of the frame, and the state with the
buffer that holds them. -/
def buildRequest (a f : Byte) (payload : List Byte) (s : State) : Except Fault (List Word × State) :=
  match putBytes (a :: f :: payload) (resetBuffer s) with
  | .error e => .error e
  | .ok s =>
    match writeCRC (2 + payload.length) s with
    | .error e => .error e
    | .ok s =>
      match wordsAt s 0 s.len with
      | some ws => .ok (ws, s)
      | none => .error .bufferOverrun

/-- Appends one item to `bus_list[op]` (R14). -/
def appendItem (op : Op) (it : Item) (s : State) : State := setBusList op (busList op s ++ [it]) s

/-- Runs a change of `bus_list[op]`, refused while a cycle that issues it holds the lock (R377). No rule says which
comes first where the change would be a model fault too; the model refuses it (log 41). -/
def changingBusList (op : Op) (s : State) (r : Except Fault State) : Host.Outcome State Fault Refusal :=
  if busListHeld op s then .refused (.busListLocked op) else outcome r

/-- `addUnicast(op, s, a, f, payload)` (R161): `expects` is true but for NopReportLVDT under
P_NOP_LVDT_EXPECTS (R186). -/
def appendUnicast (expects : Bool) (op : Op) (sub : Int) (a f : Byte) (payload : List Byte) (s : State) :
    Except Fault State :=
  match lookup sub a s with
  | .channel ch =>
    match buildRequest a f payload s with
    | .ok (ws, s) => .ok (appendItem op ⟨sub, a, f, false, expects, some ch, ws⟩ s)
    | .error e => .error e
  | _ => .error .unmappedRequest

/-- The byte with one nibble replaced. -/
def putNibble (b : Byte) (high : Bool) (c : BitVec 4) : Byte :=
  if high then (b &&& 0x0F#8) ||| (c.setWidth 8 <<< 4) else (b &&& 0xF0#8) ||| c.setWidth 8

/-- `P_BCAST_FIELD(payload, bcast_ctr)` (R162, log 17). A nibble past the end of the payload makes zero bytes up to
it. -/
def embedCounter (field : BcastField) (payload : List Byte) (c : BitVec 4) : List Byte :=
  match field with
  | .nibble i high =>
    (payload ++ List.replicate (i + 1 - payload.length) 0#8).modify i fun b => putNibble b high c
  | .other k => Config.bcastEmbed k payload c

/-- `addBroadcast(op, s, a, f, payload)`, and the counter's step (R162, R163). -/
def appendBroadcast (op : Op) (sub : Int) (a f : Byte) (payload : List Byte) (s : State) : Except Fault State :=
  if a = 248#8 ∨ a = 249#8 then
    match buildRequest a f (embedCounter s.params.bcastField payload s.bcastCtr) s with
    | .ok (ws, s) =>
      .ok { appendItem op ⟨sub, a, f, true, false, none, ws⟩ s with bcastCtr := s.bcastCtr + 1 }
    | .error e => .error e
  else .error .unmappedRequest

end Sys2Proof.Machine
end

