-- ==== Sys2Proof/Machine/Cycle.lean ====
section
/-! DEFINITION. The meanings of the sequencer's operations (46_transaction_sequencer.md rules R300, R301, R308). -/
namespace Sys2Proof.Machine

/-- `clearBusList(op)` (R300, R377). -/
def execClearBusList (op : Op) (st : State) : Host.Outcome State Fault Refusal :=
  changingBusList op st (.ok (setBusList op [] st))

/-- `runCycle(op, t)`: refused before the first successful load (R374), held while a cycle runs (R302), else one whole
cycle (R301, log 24). -/
def execRunCycle (op : Op) (t : BitVec 64) (st : State) : Host.Outcome State Fault Refusal :=
  if st.configured = false then .refused .notConfigured
  else if st.cycleBusy = true then hold (.runCycle op t) st
  else outcome (wholeCycle op t st)

/-- `verifyResponses()` (R308). -/
def execVerifyResponses (st : State) : Host.Outcome State Fault Refusal :=
  .next (verifyAll st)

end Sys2Proof.Machine
end

