-- ==== Sys2Proof/Machine/Decoder.lean ====
section
/-! DEFINITION. The meanings of the validator's operations (44_response_decoder.md rules R210, R211, R221) and of `raise`
(60_exceptions.md rule R330). -/
namespace Sys2Proof.Machine

/-- `decodeBuffer(s, words)` (R210). -/
def execDecodeBuffer (s : Int) (ws : List Word) (st : State) : Host.Outcome State Fault Refusal :=
  outcome (decodeWholeBuffer s ws st)

/-- `decodeFrame(s)` (R211). -/
def execDecodeFrame (s : Int) (st : State) : Host.Outcome State Fault Refusal :=
  outcome (decodeOneFrame s st)

/-- `dispatch(ch, s, addr, fn, k, ts)` (R221). -/
def execDispatch (f : Routed) (fn : Byte) (st : State) : Host.Outcome State Fault Refusal :=
  outcome (dispatchFrame f fn st)

/-- `raise K(aid)` (R330). -/
def execRaise (kind : WarnKind) (aid : Int) (st : State) : Host.Outcome State Fault Refusal :=
  .next (raise kind aid st)

end Sys2Proof.Machine
end

