-- ==== Sys2Proof/Machine/ExceptionResponses.lean ====
section
/-! DEFINITION. The meanings of the exception-response rows (R75, R77, R79): the exception byte at the cursor is
classified and one warning is raised (R223; log 30). -/
namespace Sys2Proof.Machine

/-- FA exception function 145, of request function 17 (R223). -/
def execExcFa145 (f : Routed) (st : State) : Host.Outcome State Fault Refusal :=
  outcome (respondException f st)

/-- FA exception function 146, of request function 18 (R223). -/
def execExcFa146 (f : Routed) (st : State) : Host.Outcome State Fault Refusal :=
  outcome (respondException f st)

/-- FA exception function 193, of request function 65 (R223). -/
def execExcFa193 (f : Routed) (st : State) : Host.Outcome State Fault Refusal :=
  outcome (respondException f st)

/-- FA exception function 201, of request function 73 (R223). -/
def execExcFa201 (f : Routed) (st : State) : Host.Outcome State Fault Refusal :=
  outcome (respondException f st)

/-- FA exception function 202, of request function 74 (R223). -/
def execExcFa202 (f : Routed) (st : State) : Host.Outcome State Fault Refusal :=
  outcome (respondException f st)

/-- FA exception function 203, of request function 75 (R223). -/
def execExcFa203 (f : Routed) (st : State) : Host.Outcome State Fault Refusal :=
  outcome (respondException f st)

/-- FA exception function 204, of request function 76 (R223). -/
def execExcFa204 (f : Routed) (st : State) : Host.Outcome State Fault Refusal :=
  outcome (respondException f st)

/-- FA exception function 208, of request function 80 (R223). -/
def execExcFa208 (f : Routed) (st : State) : Host.Outcome State Fault Refusal :=
  outcome (respondException f st)

/-- FA exception function 209, of request function 81 (R223). -/
def execExcFa209 (f : Routed) (st : State) : Host.Outcome State Fault Refusal :=
  outcome (respondException f st)

/-- FA exception function 235, of request function 107 (R223). -/
def execExcFa235 (f : Routed) (st : State) : Host.Outcome State Fault Refusal :=
  outcome (respondException f st)

/-- FA exception function 238, of request function 110 (R223). -/
def execExcFa238 (f : Routed) (st : State) : Host.Outcome State Fault Refusal :=
  outcome (respondException f st)

/-- FA exception function 247, of request function 119 (R223). -/
def execExcFa247 (f : Routed) (st : State) : Host.Outcome State Fault Refusal :=
  outcome (respondException f st)

/-- FA exception function 248, of request function 120 (R223). -/
def execExcFa248 (f : Routed) (st : State) : Host.Outcome State Fault Refusal :=
  outcome (respondException f st)

/-- FA exception function 249, of request function 121 (R223). -/
def execExcFa249 (f : Routed) (st : State) : Host.Outcome State Fault Refusal :=
  outcome (respondException f st)

/-- HA exception function 145, of request function 17 (R223). -/
def execExcHa145 (f : Routed) (st : State) : Host.Outcome State Fault Refusal :=
  outcome (respondException f st)

/-- HA exception function 146, of request function 18 (R223). -/
def execExcHa146 (f : Routed) (st : State) : Host.Outcome State Fault Refusal :=
  outcome (respondException f st)

/-- HA exception function 193, of request function 65 (R223). -/
def execExcHa193 (f : Routed) (st : State) : Host.Outcome State Fault Refusal :=
  outcome (respondException f st)

/-- HA exception function 194, of request function 66 (R223). -/
def execExcHa194 (f : Routed) (st : State) : Host.Outcome State Fault Refusal :=
  outcome (respondException f st)

/-- HA exception function 195, of request function 67 (R223). -/
def execExcHa195 (f : Routed) (st : State) : Host.Outcome State Fault Refusal :=
  outcome (respondException f st)

/-- HA exception function 208, of request function 80 (R223). -/
def execExcHa208 (f : Routed) (st : State) : Host.Outcome State Fault Refusal :=
  outcome (respondException f st)

/-- HA exception function 209, of request function 81 (R223). -/
def execExcHa209 (f : Routed) (st : State) : Host.Outcome State Fault Refusal :=
  outcome (respondException f st)

/-- HA exception function 235, of request function 107 (R223). -/
def execExcHa235 (f : Routed) (st : State) : Host.Outcome State Fault Refusal :=
  outcome (respondException f st)

/-- HA exception function 238, of request function 110 (R223). -/
def execExcHa238 (f : Routed) (st : State) : Host.Outcome State Fault Refusal :=
  outcome (respondException f st)

/-- HM exception function 145, of request function 17 (R223). -/
def execExcHm145 (f : Routed) (st : State) : Host.Outcome State Fault Refusal :=
  outcome (respondException f st)

/-- HM exception function 146, of request function 18 (R223). -/
def execExcHm146 (f : Routed) (st : State) : Host.Outcome State Fault Refusal :=
  outcome (respondException f st)

/-- HM exception function 193, of request function 65 (R223). -/
def execExcHm193 (f : Routed) (st : State) : Host.Outcome State Fault Refusal :=
  outcome (respondException f st)

/-- HM exception function 235, of request function 107 (R223). -/
def execExcHm235 (f : Routed) (st : State) : Host.Outcome State Fault Refusal :=
  outcome (respondException f st)

/-- HM exception function 247, of request function 119 (R223). -/
def execExcHm247 (f : Routed) (st : State) : Host.Outcome State Fault Refusal :=
  outcome (respondException f st)

/-- HM exception function 248, of request function 120 (R223). -/
def execExcHm248 (f : Routed) (st : State) : Host.Outcome State Fault Refusal :=
  outcome (respondException f st)

/-- HM exception function 249, of request function 121 (R223). -/
def execExcHm249 (f : Routed) (st : State) : Host.Outcome State Fault Refusal :=
  outcome (respondException f st)

/-- HM exception function 250, of request function 122 (R223). -/
def execExcHm250 (f : Routed) (st : State) : Host.Outcome State Fault Refusal :=
  outcome (respondException f st)

end Sys2Proof.Machine
end

