-- ==== Sys2Proof/Machine/Requests.lean ====
section
/-! DEFINITION. The meanings of the request encoder's operations and of the request catalogue (42_request_encoder.md rules
R160 to R189): a unicast request is `addUnicast` and a broadcast one `addBroadcast`, with the function code shown. The
operand `p` is the payload P_REQ_PAYLOAD gives (log 16). -/
namespace Sys2Proof.Machine

/-- A unicast request of the catalogue. -/
def unicast (expects : Bool) (op : Op) (s : Int) (a f : Byte) (p : List Byte) (st : State) :
    Host.Outcome State Fault Refusal :=
  changingBusList op st (appendUnicast expects op s a f p st)

/-- A broadcast request of the catalogue. -/
def broadcast (op : Op) (s : Int) (a f : Byte) (p : List Byte) (st : State) : Host.Outcome State Fault Refusal :=
  changingBusList op st (appendBroadcast op s a f p st)

/-- `encodeRequest(a, f, payload)` (R160). -/
def execEncodeRequest (a f : Byte) (payload : List Byte) (st : State) : Host.Outcome State Fault Refusal :=
  answer .words (buildRequest a f payload st)

/-- `addUnicast(op, s, a, f, payload)` (R161). -/
def execAddUnicast (op : Op) (s : Int) (a f : Byte) (payload : List Byte) (st : State) : Host.Outcome State Fault Refusal :=
  unicast true op s a f payload st

/-- `addBroadcast(op, s, a, f, payload)` (R162, R163). -/
def execAddBroadcast (op : Op) (s : Int) (a f : Byte) (payload : List Byte) (st : State) : Host.Outcome State Fault Refusal :=
  broadcast op s a f payload st

/-- ReportServerID: function 17, unicast (R164). -/
def execReqReportServerID (op : Op) (s : Int) (a : Byte) (p : List Byte) (st : State) : Host.Outcome State Fault Refusal :=
  unicast true op s a 17#8 p st

/-- ReportServerStatus: function 18, unicast (R165). -/
def execReqReportServerStatus (op : Op) (s : Int) (a : Byte) (p : List Byte) (st : State) : Host.Outcome State Fault Refusal :=
  unicast true op s a 18#8 p st

/-- ChangeILCMode: function 65, unicast (R166). -/
def execReqChangeILCMode (op : Op) (s : Int) (a : Byte) (p : List Byte) (st : State) : Host.Outcome State Fault Refusal :=
  unicast true op s a 65#8 p st

/-- SetADCScanRate: function 80, unicast (R167). -/
def execReqSetADCScanRate (op : Op) (s : Int) (a : Byte) (p : List Byte) (st : State) : Host.Outcome State Fault Refusal :=
  unicast true op s a 80#8 p st

/-- SetADCChannelOffsetAndSensitivity: function 81, unicast (R168). -/
def execReqSetADCChannelOffsetAndSensitivity (op : Op) (s : Int) (a : Byte) (p : List Byte) (st : State) : Host.Outcome State Fault Refusal :=
  unicast true op s a 81#8 p st

/-- Reset: function 107, unicast (R169). -/
def execReqReset (op : Op) (s : Int) (a : Byte) (p : List Byte) (st : State) : Host.Outcome State Fault Refusal :=
  unicast true op s a 107#8 p st

/-- ReadCalibration: function 110, unicast (R170). -/
def execReqReadCalibration (op : Op) (s : Int) (a : Byte) (p : List Byte) (st : State) : Host.Outcome State Fault Refusal :=
  unicast true op s a 110#8 p st

/-- ReportDCAPressure: function 119, unicast (R171). -/
def execReqReportDCAPressure (op : Op) (s : Int) (a : Byte) (p : List Byte) (st : State) : Host.Outcome State Fault Refusal :=
  unicast true op s a 119#8 p st

/-- ReportDCAID: function 120, unicast (R172). -/
def execReqReportDCAID (op : Op) (s : Int) (a : Byte) (p : List Byte) (st : State) : Host.Outcome State Fault Refusal :=
  unicast true op s a 120#8 p st

/-- ReportDCAStatus: function 121, unicast (R173). -/
def execReqReportDCAStatus (op : Op) (s : Int) (a : Byte) (p : List Byte) (st : State) : Host.Outcome State Fault Refusal :=
  unicast true op s a 121#8 p st

/-- SetBoostValveDCAGains: function 73, unicast (R174). -/
def execReqSetBoostValveDCAGains (op : Op) (s : Int) (a : Byte) (p : List Byte) (st : State) : Host.Outcome State Fault Refusal :=
  unicast true op s a 73#8 p st

/-- ReadBoostValveDCAGains: function 74, unicast (R175). -/
def execReqReadBoostValveDCAGains (op : Op) (s : Int) (a : Byte) (p : List Byte) (st : State) : Host.Outcome State Fault Refusal :=
  unicast true op s a 74#8 p st

/-- StepMotor: function 66, unicast (R176). -/
def execReqStepMotor (op : Op) (s : Int) (a : Byte) (p : List Byte) (st : State) : Host.Outcome State Fault Refusal :=
  unicast true op s a 66#8 p st

/-- StepMotorBroadcast: function P_FN_STEPMOTOR_BCAST, broadcast to 249 (R177). -/
def execReqStepMotorBroadcast (op : Op) (s : Int) (p : List Byte) (st : State) : Host.Outcome State Fault Refusal :=
  broadcast op s 249#8 st.params.fnStepMotorBcast p st

/-- ForceDemandSingle: function 75, unicast (R178). -/
def execReqForceDemandSingle (op : Op) (s : Int) (a : Byte) (p : List Byte) (st : State) : Host.Outcome State Fault Refusal :=
  unicast true op s a 75#8 p st

/-- ForceDemandDual: function 75, unicast (R179). -/
def execReqForceDemandDual (op : Op) (s : Int) (a : Byte) (p : List Byte) (st : State) : Host.Outcome State Fault Refusal :=
  unicast true op s a 75#8 p st

/-- ForceDemandBroadcast: function P_FN_FORCEDEMAND_BCAST, broadcast to 248 (R180). -/
def execReqForceDemandBroadcast (op : Op) (s : Int) (p : List Byte) (st : State) : Host.Outcome State Fault Refusal :=
  broadcast op s 248#8 st.params.fnForceDemandBcast p st

/-- PneumaticForceStatus: function 76, unicast (R181). -/
def execReqPneumaticForceStatus (op : Op) (s : Int) (a : Byte) (p : List Byte) (st : State) : Host.Outcome State Fault Refusal :=
  unicast true op s a 76#8 p st

/-- ElectromechanicalForceAndStatus: function 67, unicast (R182). -/
def execReqElectromechanicalForceAndStatus (op : Op) (s : Int) (a : Byte) (p : List Byte) (st : State) : Host.Outcome State Fault Refusal :=
  unicast true op s a 67#8 p st

/-- FreezeSensorValuesElectromechanical: function P_FN_FREEZE_EM, broadcast to 248 (R183). -/
def execReqFreezeSensorValuesElectromechanical (op : Op) (s : Int) (p : List Byte) (st : State) : Host.Outcome State Fault Refusal :=
  broadcast op s 248#8 st.params.fnFreezeEm p st

/-- FreezeSensorValuesPneumatic: function P_FN_FREEZE_PNEU, broadcast to 248 (R184). -/
def execReqFreezeSensorValuesPneumatic (op : Op) (s : Int) (p : List Byte) (st : State) : Host.Outcome State Fault Refusal :=
  broadcast op s 248#8 st.params.fnFreezePneu p st

/-- ReportLVDT: function 122, unicast (R185). -/
def execReqReportLVDT (op : Op) (s : Int) (a : Byte) (p : List Byte) (st : State) : Host.Outcome State Fault Refusal :=
  unicast true op s a 122#8 p st

/-- NopReportLVDT: function P_FN_NOP_LVDT, unicast (R186). -/
def execReqNopReportLVDT (op : Op) (s : Int) (a : Byte) (p : List Byte) (st : State) : Host.Outcome State Fault Refusal :=
  unicast st.params.nopLvdtExpects op s a st.params.fnNopLvdt p st

/-- ReportHMPressure: function 119, unicast (R187). -/
def execReqReportHMPressure (op : Op) (s : Int) (a : Byte) (p : List Byte) (st : State) : Host.Outcome State Fault Refusal :=
  unicast true op s a 119#8 p st

/-- ReportHMMezzanineID: function 120, unicast (R188). -/
def execReqReportHMMezzanineID (op : Op) (s : Int) (a : Byte) (p : List Byte) (st : State) : Host.Outcome State Fault Refusal :=
  unicast true op s a 120#8 p st

/-- ReportHMMezzanineStatus: function 121, unicast (R189). -/
def execReqReportHMMezzanineStatus (op : Op) (s : Int) (a : Byte) (p : List Byte) (st : State) : Host.Outcome State Fault Refusal :=
  unicast true op s a 121#8 p st

end Sys2Proof.Machine
end

