-- ==== Sys2Proof/Machine/Responses.lean ====
section
/-! DEFINITION. The meanings of the success-response rows: for one (device type, function), the length check and the
handler of a frame routed to a channel of that type, its payload at the cursor (R222, R254 to R284; log 30). -/
namespace Sys2Proof.Machine

/-- FA 17, ReportServerID (R254). -/
def execRspFaReportServerID (f : Routed) (st : State) : Host.Outcome State Fault Refusal :=
  outcome (respond 17 readServerID f st)

/-- FA 18, ReportServerStatus (R255). -/
def execRspFaReportServerStatus (f : Routed) (st : State) : Host.Outcome State Fault Refusal :=
  outcome (respond 18 readServerStatus f st)

/-- FA 65, ChangeILCMode (R256). -/
def execRspFaChangeILCMode (f : Routed) (st : State) : Host.Outcome State Fault Refusal :=
  outcome (respond 65 readMode f st)

/-- FA 73, SetBoostValveDCAGains (R257). -/
def execRspFaSetBoostValveDCAGains (f : Routed) (st : State) : Host.Outcome State Fault Refusal :=
  outcome (respond 73 readRaw f st)

/-- FA 74, ReadBoostValveDCAGains (R258). -/
def execRspFaReadBoostValveDCAGains (f : Routed) (st : State) : Host.Outcome State Fault Refusal :=
  outcome (respond 74 readGains f st)

/-- FA 75, ForceDemand (R259). -/
def execRspFaForceDemand (f : Routed) (st : State) : Host.Outcome State Fault Refusal :=
  outcome (respond 75 readForces f st)

/-- FA 76, PneumaticForceStatus (R260). -/
def execRspFaPneumaticForceStatus (f : Routed) (st : State) : Host.Outcome State Fault Refusal :=
  outcome (respond 76 readForces f st)

/-- FA 80, SetADCScanRate (R261). -/
def execRspFaSetADCScanRate (f : Routed) (st : State) : Host.Outcome State Fault Refusal :=
  outcome (respond 80 readRaw f st)

/-- FA 81, SetADCChannelOffsetAndSensitivity (R262). -/
def execRspFaSetADCChannelOffsetAndSensitivity (f : Routed) (st : State) : Host.Outcome State Fault Refusal :=
  outcome (respond 81 readRaw f st)

/-- FA 107, Reset (R263). -/
def execRspFaReset (f : Routed) (st : State) : Host.Outcome State Fault Refusal :=
  outcome (respond 107 readRaw f st)

/-- FA 110, ReadCalibration (R264). -/
def execRspFaReadCalibration (f : Routed) (st : State) : Host.Outcome State Fault Refusal :=
  outcome (respond 110 readCalibration f st)

/-- FA 119, ReportDCAPressure (R265). -/
def execRspFaReportDCAPressure (f : Routed) (st : State) : Host.Outcome State Fault Refusal :=
  outcome (respond 119 readPressure f st)

/-- FA 120, ReportDCAID (R266). -/
def execRspFaReportDCAID (f : Routed) (st : State) : Host.Outcome State Fault Refusal :=
  outcome (respond 120 readRaw f st)

/-- FA 121, ReportDCAStatus (R267). -/
def execRspFaReportDCAStatus (f : Routed) (st : State) : Host.Outcome State Fault Refusal :=
  outcome (respond 121 readStatusBits f st)

/-- HA 17, ReportServerID (R268). -/
def execRspHaReportServerID (f : Routed) (st : State) : Host.Outcome State Fault Refusal :=
  outcome (respond 17 readServerID f st)

/-- HA 18, ReportServerStatus (R269). -/
def execRspHaReportServerStatus (f : Routed) (st : State) : Host.Outcome State Fault Refusal :=
  outcome (respond 18 readServerStatus f st)

/-- HA 65, ChangeILCMode (R270). -/
def execRspHaChangeILCMode (f : Routed) (st : State) : Host.Outcome State Fault Refusal :=
  outcome (respond 65 readMode f st)

/-- HA 66, StepMotor (R271). -/
def execRspHaStepMotor (f : Routed) (st : State) : Host.Outcome State Fault Refusal :=
  outcome (respond 66 readElectromechanical f st)

/-- HA 67, ElectromechanicalForceAndStatus (R272). -/
def execRspHaElectromechanicalForceAndStatus (f : Routed) (st : State) : Host.Outcome State Fault Refusal :=
  outcome (respond 67 readElectromechanical f st)

/-- HA 80, SetADCScanRate (R273). -/
def execRspHaSetADCScanRate (f : Routed) (st : State) : Host.Outcome State Fault Refusal :=
  outcome (respond 80 readRaw f st)

/-- HA 81, SetADCChannelOffsetAndSensitivity (R274). -/
def execRspHaSetADCChannelOffsetAndSensitivity (f : Routed) (st : State) : Host.Outcome State Fault Refusal :=
  outcome (respond 81 readRaw f st)

/-- HA 107, Reset (R275). -/
def execRspHaReset (f : Routed) (st : State) : Host.Outcome State Fault Refusal :=
  outcome (respond 107 readRaw f st)

/-- HA 110, ReadCalibration (R276). -/
def execRspHaReadCalibration (f : Routed) (st : State) : Host.Outcome State Fault Refusal :=
  outcome (respond 110 readCalibration f st)

/-- HM 17, ReportServerID (R277). -/
def execRspHmReportServerID (f : Routed) (st : State) : Host.Outcome State Fault Refusal :=
  outcome (respond 17 readServerID f st)

/-- HM 18, ReportServerStatus (R278). -/
def execRspHmReportServerStatus (f : Routed) (st : State) : Host.Outcome State Fault Refusal :=
  outcome (respond 18 readServerStatus f st)

/-- HM 65, ChangeILCMode (R279). -/
def execRspHmChangeILCMode (f : Routed) (st : State) : Host.Outcome State Fault Refusal :=
  outcome (respond 65 readMode f st)

/-- HM 107, Reset (R280). -/
def execRspHmReset (f : Routed) (st : State) : Host.Outcome State Fault Refusal :=
  outcome (respond 107 readRaw f st)

/-- HM 119, ReportHMPressure (R281). -/
def execRspHmReportHMPressure (f : Routed) (st : State) : Host.Outcome State Fault Refusal :=
  outcome (respond 119 readPressureChecked f st)

/-- HM 120, ReportHMMezzanineID (R282). -/
def execRspHmReportHMMezzanineID (f : Routed) (st : State) : Host.Outcome State Fault Refusal :=
  outcome (respond 120 readRaw f st)

/-- HM 121, ReportHMMezzanineStatus (R283). -/
def execRspHmReportHMMezzanineStatus (f : Routed) (st : State) : Host.Outcome State Fault Refusal :=
  outcome (respond 121 readStatusBits f st)

/-- HM 122, ReportLVDT (R284). -/
def execRspHmReportLVDT (f : Routed) (st : State) : Host.Outcome State Fault Refusal :=
  outcome (respond 122 readLvdt f st)

end Sys2Proof.Machine
end

