-- ==== Sys2Proof/Machine/WireBuffer.lean ====
section
/-! DEFINITION. The meanings of the wire-buffer operations (41_wirebuffer.md rules R120 to R149). -/
namespace Sys2Proof.Machine

/-- `reset()` (R120). -/
def execReset (st : State) : Host.Outcome State Fault Refusal :=
  .next (resetBuffer st)

/-- `load(words)` (R121). -/
def execLoad (ws : List Word) (st : State) : Host.Outcome State Fault Refusal :=
  outcome (loadBuffer ws st)

/-- `writeU8(v)` (R123). -/
def execWriteU8 (v : Int) (st : State) : Host.Outcome State Fault Refusal :=
  outcome (writeIntBE 1 v st)

/-- `writeI8(v)` (R124). -/
def execWriteI8 (v : Int) (st : State) : Host.Outcome State Fault Refusal :=
  outcome (writeIntBE 1 v st)

/-- `writeU16(v)` (R125). -/
def execWriteU16 (v : Int) (st : State) : Host.Outcome State Fault Refusal :=
  outcome (writeIntBE 2 v st)

/-- `writeI16(v)` (R126). -/
def execWriteI16 (v : Int) (st : State) : Host.Outcome State Fault Refusal :=
  outcome (writeIntBE 2 v st)

/-- `writeI24(v)` (R127). -/
def execWriteI24 (v : Int) (st : State) : Host.Outcome State Fault Refusal :=
  outcome (writeIntBE 3 v st)

/-- `writeU32(v)` (R128). -/
def execWriteU32 (v : Int) (st : State) : Host.Outcome State Fault Refusal :=
  outcome (writeIntBE 4 v st)

/-- `writeI32(v)` (R129). -/
def execWriteI32 (v : Int) (st : State) : Host.Outcome State Fault Refusal :=
  outcome (writeIntBE 4 v st)

/-- `writeSGL(f)` on the binary32 pattern (R130). -/
def execWriteSGL (p : F32) (st : State) : Host.Outcome State Fault Refusal :=
  outcome (writeFloat p st)

/-- `readU8()` (R131). -/
def execReadU8 (st : State) : Host.Outcome State Fault Refusal :=
  answer (fun v : Nat => .int v) (readUnsigned 1 st)

/-- `readI8()` (R132). -/
def execReadI8 (st : State) : Host.Outcome State Fault Refusal :=
  answer .int (readSigned 1 st)

/-- `readU16()` (R133). -/
def execReadU16 (st : State) : Host.Outcome State Fault Refusal :=
  answer (fun v : Nat => .int v) (readUnsigned 2 st)

/-- `readI16()` (R134). -/
def execReadI16 (st : State) : Host.Outcome State Fault Refusal :=
  answer .int (readSigned 2 st)

/-- `readI24()` (R135). -/
def execReadI24 (st : State) : Host.Outcome State Fault Refusal :=
  answer .int (readSigned 3 st)

/-- `readU32()` (R136). -/
def execReadU32 (st : State) : Host.Outcome State Fault Refusal :=
  answer (fun v : Nat => .int v) (readUnsigned 4 st)

/-- `readI32()` (R137). -/
def execReadI32 (st : State) : Host.Outcome State Fault Refusal :=
  answer .int (readSigned 4 st)

/-- `readSGL()` (R138). -/
def execReadSGL (st : State) : Host.Outcome State Fault Refusal :=
  answer .float (readFloat st)

/-- `writeEndOfFrame()` (R139). -/
def execWriteEndOfFrame (st : State) : Host.Outcome State Fault Refusal :=
  outcome (putWord (controlWord (.endOfFrame)) st)

/-- `writeSoftwareTrigger()` (R140). -/
def execWriteSoftwareTrigger (st : State) : Host.Outcome State Fault Refusal :=
  outcome (putWord (controlWord (.softwareTrigger)) st)

/-- `writeDelay(d)` (R141). -/
def execWriteDelay (d : Nat) (st : State) : Host.Outcome State Fault Refusal :=
  outcome (putWord (controlWord (.delay d)) st)

/-- `writeTimestamp()` (R142). -/
def execWriteTimestamp (st : State) : Host.Outcome State Fault Refusal :=
  outcome (putWord (controlWord (.timestamp)) st)

/-- `writeTriggerIRQ()` (R143). -/
def execWriteTriggerIRQ (st : State) : Host.Outcome State Fault Refusal :=
  outcome (putWord (controlWord (.triggerIRQ)) st)

/-- `writeLength(n)` (R144). -/
def execWriteLength (n : Nat) (st : State) : Host.Outcome State Fault Refusal :=
  outcome (putWord (controlWord (.length n)) st)

/-- `endOfBuffer()` (R145). -/
def execEndOfBuffer (st : State) : Host.Outcome State Fault Refusal :=
  .next { st with ret := .bool (endOfBuffer st) }

/-- `endOfFrame()` (R146). -/
def execEndOfFrame (st : State) : Host.Outcome State Fault Refusal :=
  .next { st with ret := .bool (endOfFrame st) }

/-- `skipToNextFrame()` (R147). -/
def execSkipToNextFrame (st : State) : Host.Outcome State Fault Refusal :=
  .next (skipToNextFrame st)

/-- `readTimestamp()` (R148); it never faults. -/
def execReadTimestamp (st : State) : Host.Outcome State Fault Refusal :=
  answer .stamp (.ok (readTimestamp st))

/-- `readCRC()` (R149). -/
def execReadCRC (st : State) : Host.Outcome State Fault Refusal :=
  answer .word (readCrcBytes st)

end Sys2Proof.Machine
end

