-- ==== Sys2Proof/Machine/Words.lean ====
section
/-! DEFINITION. The meanings of the transport-word rows (30_encoding.md rules R61 to R66). An outbound word is written at
the cursor. An inbound word enters the block by a load (R12), here of that one word, and is then taken as its
class is (R66): log 3. -/
namespace Sys2Proof.Machine

/-- One inbound word is delivered, then taken by `take` (log 3). -/
def receiveWord (w : Word) (take : State → Host.Outcome State Fault Refusal) (st : State) :
    Host.Outcome State Fault Refusal :=
  match loadBuffer [w] st with
  | .ok st => take st
  | .error f => .fault f

/-- The word at the cursor is classified; classification moves nothing (R66). -/
def classifyAtCursor (st : State) : Host.Outcome State Fault Refusal :=
  match wordAt st st.idx with
  | some w => .next { st with ret := .wordClass (classify w) }
  | none => .fault .bufferOverrun

/-- TXD(b): an outbound data byte is written at the cursor (R61, R123). -/
def execTxd (b : Byte) (st : State) : Host.Outcome State Fault Refusal :=
  outcome (putWord (txdWord b) st)

/-- RXD(b): an inbound data byte is read (R62, R66, R131). -/
def execRxd (b : Byte) (st : State) : Host.Outcome State Fault Refusal :=
  receiveWord (rxdWord b) (fun st => answer (fun v : Nat => .int v) (readUnsigned 1 st)) st

/-- TSW(t): an inbound timestamp byte is read, unshifted (R63, R148). -/
def execTsw (t : Byte) (st : State) : Host.Outcome State Fault Refusal :=
  receiveWord (tswWord t) (fun st => answer .stamp (.ok (readTimestamp st))) st

/-- EOF: an end-of-frame word is recognized and passed (R64, R146, R147). -/
def execEof (st : State) : Host.Outcome State Fault Refusal :=
  receiveWord eofWord (fun st => answer .bool (.ok (endOfFrame st, skipToNextFrame st))) st

/-- CLASS_TS: an inbound word is classified by its tag nibble (R66). -/
def execClassTs (w : Word) (st : State) : Host.Outcome State Fault Refusal :=
  receiveWord w classifyAtCursor st

/-- CLASS_EOFW: an inbound word is classified by its tag nibble (R66). -/
def execClassEofw (w : Word) (st : State) : Host.Outcome State Fault Refusal :=
  receiveWord w classifyAtCursor st

/-- CLASS_DATA: an inbound word is classified by its tag nibble (R66). -/
def execClassData (w : Word) (st : State) : Host.Outcome State Fault Refusal :=
  receiveWord w classifyAtCursor st

/-- CW_LENGTH: the outbound control word is written at the cursor, not shifted (R65, R144). -/
def execCwLength (n : Nat) (st : State) : Host.Outcome State Fault Refusal :=
  outcome (putWord (controlWord (.length n)) st)

/-- CW_SWTRIGGER: the outbound control word is written at the cursor, not shifted (R65, R140). -/
def execCwSwTrigger (st : State) : Host.Outcome State Fault Refusal :=
  outcome (putWord (controlWord (.softwareTrigger)) st)

/-- CW_DELAY: the outbound control word is written at the cursor, not shifted (R65, R141). -/
def execCwDelay (d : Nat) (st : State) : Host.Outcome State Fault Refusal :=
  outcome (putWord (controlWord (.delay d)) st)

/-- CW_TIMESTAMP: the outbound control word is written at the cursor, not shifted (R65, R142). -/
def execCwTimestamp (st : State) : Host.Outcome State Fault Refusal :=
  outcome (putWord (controlWord (.timestamp)) st)

/-- CW_TRIGGER_IRQ: the outbound control word is written at the cursor, not shifted (R65, R143). -/
def execCwTriggerIrq (st : State) : Host.Outcome State Fault Refusal :=
  outcome (putWord (controlWord (.triggerIRQ)) st)

end Sys2Proof.Machine
end

