-- ==== Sys2Proof/Machine/Dispatch.lean ====
section
/-! DEFINITION. One arm per row of spec/opcode_table.json. -/
namespace Sys2Proof.Machine

/-- The meaning of each instruction. -/
def exec (i : Instr) (s : State) : Host.Outcome State Fault Refusal :=
  match i with
  | .txd b => Sys2Proof.Machine.execTxd b s
  | .rxd b => Sys2Proof.Machine.execRxd b s
  | .tsw t => Sys2Proof.Machine.execTsw t s
  | .eof => Sys2Proof.Machine.execEof s
  | .classTs w => Sys2Proof.Machine.execClassTs w s
  | .classEofw w => Sys2Proof.Machine.execClassEofw w s
  | .classData w => Sys2Proof.Machine.execClassData w s
  | .cwLength n => Sys2Proof.Machine.execCwLength n s
  | .cwSwTrigger => Sys2Proof.Machine.execCwSwTrigger s
  | .cwDelay d => Sys2Proof.Machine.execCwDelay d s
  | .cwTimestamp => Sys2Proof.Machine.execCwTimestamp s
  | .cwTriggerIrq => Sys2Proof.Machine.execCwTriggerIrq s
  | .rspFaReportServerID f => Sys2Proof.Machine.execRspFaReportServerID f s
  | .rspFaReportServerStatus f => Sys2Proof.Machine.execRspFaReportServerStatus f s
  | .rspFaChangeILCMode f => Sys2Proof.Machine.execRspFaChangeILCMode f s
  | .rspFaSetBoostValveDCAGains f => Sys2Proof.Machine.execRspFaSetBoostValveDCAGains f s
  | .rspFaReadBoostValveDCAGains f => Sys2Proof.Machine.execRspFaReadBoostValveDCAGains f s
  | .rspFaForceDemand f => Sys2Proof.Machine.execRspFaForceDemand f s
  | .rspFaPneumaticForceStatus f => Sys2Proof.Machine.execRspFaPneumaticForceStatus f s
  | .rspFaSetADCScanRate f => Sys2Proof.Machine.execRspFaSetADCScanRate f s
  | .rspFaSetADCChannelOffsetAndSensitivity f => Sys2Proof.Machine.execRspFaSetADCChannelOffsetAndSensitivity f s
  | .rspFaReset f => Sys2Proof.Machine.execRspFaReset f s
  | .rspFaReadCalibration f => Sys2Proof.Machine.execRspFaReadCalibration f s
  | .rspFaReportDCAPressure f => Sys2Proof.Machine.execRspFaReportDCAPressure f s
  | .rspFaReportDCAID f => Sys2Proof.Machine.execRspFaReportDCAID f s
  | .rspFaReportDCAStatus f => Sys2Proof.Machine.execRspFaReportDCAStatus f s
  | .rspHaReportServerID f => Sys2Proof.Machine.execRspHaReportServerID f s
  | .rspHaReportServerStatus f => Sys2Proof.Machine.execRspHaReportServerStatus f s
  | .rspHaChangeILCMode f => Sys2Proof.Machine.execRspHaChangeILCMode f s
  | .rspHaStepMotor f => Sys2Proof.Machine.execRspHaStepMotor f s
  | .rspHaElectromechanicalForceAndStatus f => Sys2Proof.Machine.execRspHaElectromechanicalForceAndStatus f s
  | .rspHaSetADCScanRate f => Sys2Proof.Machine.execRspHaSetADCScanRate f s
  | .rspHaSetADCChannelOffsetAndSensitivity f => Sys2Proof.Machine.execRspHaSetADCChannelOffsetAndSensitivity f s
  | .rspHaReset f => Sys2Proof.Machine.execRspHaReset f s
  | .rspHaReadCalibration f => Sys2Proof.Machine.execRspHaReadCalibration f s
  | .rspHmReportServerID f => Sys2Proof.Machine.execRspHmReportServerID f s
  | .rspHmReportServerStatus f => Sys2Proof.Machine.execRspHmReportServerStatus f s
  | .rspHmChangeILCMode f => Sys2Proof.Machine.execRspHmChangeILCMode f s
  | .rspHmReset f => Sys2Proof.Machine.execRspHmReset f s
  | .rspHmReportHMPressure f => Sys2Proof.Machine.execRspHmReportHMPressure f s
  | .rspHmReportHMMezzanineID f => Sys2Proof.Machine.execRspHmReportHMMezzanineID f s
  | .rspHmReportHMMezzanineStatus f => Sys2Proof.Machine.execRspHmReportHMMezzanineStatus f s
  | .rspHmReportLVDT f => Sys2Proof.Machine.execRspHmReportLVDT f s
  | .excFa145 f => Sys2Proof.Machine.execExcFa145 f s
  | .excFa146 f => Sys2Proof.Machine.execExcFa146 f s
  | .excFa193 f => Sys2Proof.Machine.execExcFa193 f s
  | .excFa201 f => Sys2Proof.Machine.execExcFa201 f s
  | .excFa202 f => Sys2Proof.Machine.execExcFa202 f s
  | .excFa203 f => Sys2Proof.Machine.execExcFa203 f s
  | .excFa204 f => Sys2Proof.Machine.execExcFa204 f s
  | .excFa208 f => Sys2Proof.Machine.execExcFa208 f s
  | .excFa209 f => Sys2Proof.Machine.execExcFa209 f s
  | .excFa235 f => Sys2Proof.Machine.execExcFa235 f s
  | .excFa238 f => Sys2Proof.Machine.execExcFa238 f s
  | .excFa247 f => Sys2Proof.Machine.execExcFa247 f s
  | .excFa248 f => Sys2Proof.Machine.execExcFa248 f s
  | .excFa249 f => Sys2Proof.Machine.execExcFa249 f s
  | .excHa145 f => Sys2Proof.Machine.execExcHa145 f s
  | .excHa146 f => Sys2Proof.Machine.execExcHa146 f s
  | .excHa193 f => Sys2Proof.Machine.execExcHa193 f s
  | .excHa194 f => Sys2Proof.Machine.execExcHa194 f s
  | .excHa195 f => Sys2Proof.Machine.execExcHa195 f s
  | .excHa208 f => Sys2Proof.Machine.execExcHa208 f s
  | .excHa209 f => Sys2Proof.Machine.execExcHa209 f s
  | .excHa235 f => Sys2Proof.Machine.execExcHa235 f s
  | .excHa238 f => Sys2Proof.Machine.execExcHa238 f s
  | .excHm145 f => Sys2Proof.Machine.execExcHm145 f s
  | .excHm146 f => Sys2Proof.Machine.execExcHm146 f s
  | .excHm193 f => Sys2Proof.Machine.execExcHm193 f s
  | .excHm235 f => Sys2Proof.Machine.execExcHm235 f s
  | .excHm247 f => Sys2Proof.Machine.execExcHm247 f s
  | .excHm248 f => Sys2Proof.Machine.execExcHm248 f s
  | .excHm249 f => Sys2Proof.Machine.execExcHm249 f s
  | .excHm250 f => Sys2Proof.Machine.execExcHm250 f s
  | .reqReportServerID op sub a p => Sys2Proof.Machine.execReqReportServerID op sub a p s
  | .reqReportServerStatus op sub a p => Sys2Proof.Machine.execReqReportServerStatus op sub a p s
  | .reqChangeILCMode op sub a p => Sys2Proof.Machine.execReqChangeILCMode op sub a p s
  | .reqSetADCScanRate op sub a p => Sys2Proof.Machine.execReqSetADCScanRate op sub a p s
  | .reqSetADCChannelOffsetAndSensitivity op sub a p => Sys2Proof.Machine.execReqSetADCChannelOffsetAndSensitivity op sub a p s
  | .reqReset op sub a p => Sys2Proof.Machine.execReqReset op sub a p s
  | .reqReadCalibration op sub a p => Sys2Proof.Machine.execReqReadCalibration op sub a p s
  | .reqReportDCAPressure op sub a p => Sys2Proof.Machine.execReqReportDCAPressure op sub a p s
  | .reqReportDCAID op sub a p => Sys2Proof.Machine.execReqReportDCAID op sub a p s
  | .reqReportDCAStatus op sub a p => Sys2Proof.Machine.execReqReportDCAStatus op sub a p s
  | .reqSetBoostValveDCAGains op sub a p => Sys2Proof.Machine.execReqSetBoostValveDCAGains op sub a p s
  | .reqReadBoostValveDCAGains op sub a p => Sys2Proof.Machine.execReqReadBoostValveDCAGains op sub a p s
  | .reqStepMotor op sub a p => Sys2Proof.Machine.execReqStepMotor op sub a p s
  | .reqStepMotorBroadcast op sub p => Sys2Proof.Machine.execReqStepMotorBroadcast op sub p s
  | .reqForceDemandSingle op sub a p => Sys2Proof.Machine.execReqForceDemandSingle op sub a p s
  | .reqForceDemandDual op sub a p => Sys2Proof.Machine.execReqForceDemandDual op sub a p s
  | .reqForceDemandBroadcast op sub p => Sys2Proof.Machine.execReqForceDemandBroadcast op sub p s
  | .reqPneumaticForceStatus op sub a p => Sys2Proof.Machine.execReqPneumaticForceStatus op sub a p s
  | .reqElectromechanicalForceAndStatus op sub a p => Sys2Proof.Machine.execReqElectromechanicalForceAndStatus op sub a p s
  | .reqFreezeSensorValuesElectromechanical op sub p => Sys2Proof.Machine.execReqFreezeSensorValuesElectromechanical op sub p s
  | .reqFreezeSensorValuesPneumatic op sub p => Sys2Proof.Machine.execReqFreezeSensorValuesPneumatic op sub p s
  | .reqReportLVDT op sub a p => Sys2Proof.Machine.execReqReportLVDT op sub a p s
  | .reqNopReportLVDT op sub a p => Sys2Proof.Machine.execReqNopReportLVDT op sub a p s
  | .reqReportHMPressure op sub a p => Sys2Proof.Machine.execReqReportHMPressure op sub a p s
  | .reqReportHMMezzanineID op sub a p => Sys2Proof.Machine.execReqReportHMMezzanineID op sub a p s
  | .reqReportHMMezzanineStatus op sub a p => Sys2Proof.Machine.execReqReportHMMezzanineStatus op sub a p s
  | .reset => Sys2Proof.Machine.execReset s
  | .load ws => Sys2Proof.Machine.execLoad ws s
  | .writeU8 v => Sys2Proof.Machine.execWriteU8 v s
  | .writeI8 v => Sys2Proof.Machine.execWriteI8 v s
  | .writeU16 v => Sys2Proof.Machine.execWriteU16 v s
  | .writeI16 v => Sys2Proof.Machine.execWriteI16 v s
  | .writeI24 v => Sys2Proof.Machine.execWriteI24 v s
  | .writeU32 v => Sys2Proof.Machine.execWriteU32 v s
  | .writeI32 v => Sys2Proof.Machine.execWriteI32 v s
  | .writeSGL p => Sys2Proof.Machine.execWriteSGL p s
  | .readU8 => Sys2Proof.Machine.execReadU8 s
  | .readI8 => Sys2Proof.Machine.execReadI8 s
  | .readU16 => Sys2Proof.Machine.execReadU16 s
  | .readI16 => Sys2Proof.Machine.execReadI16 s
  | .readI24 => Sys2Proof.Machine.execReadI24 s
  | .readU32 => Sys2Proof.Machine.execReadU32 s
  | .readI32 => Sys2Proof.Machine.execReadI32 s
  | .readSGL => Sys2Proof.Machine.execReadSGL s
  | .writeEndOfFrame => Sys2Proof.Machine.execWriteEndOfFrame s
  | .writeSoftwareTrigger => Sys2Proof.Machine.execWriteSoftwareTrigger s
  | .writeDelay d => Sys2Proof.Machine.execWriteDelay d s
  | .writeTimestamp => Sys2Proof.Machine.execWriteTimestamp s
  | .writeTriggerIRQ => Sys2Proof.Machine.execWriteTriggerIRQ s
  | .writeLength n => Sys2Proof.Machine.execWriteLength n s
  | .endOfBuffer => Sys2Proof.Machine.execEndOfBuffer s
  | .endOfFrame => Sys2Proof.Machine.execEndOfFrame s
  | .skipToNextFrame => Sys2Proof.Machine.execSkipToNextFrame s
  | .readTimestamp => Sys2Proof.Machine.execReadTimestamp s
  | .readCRC => Sys2Proof.Machine.execReadCRC s
  | .crc16 bytes => Sys2Proof.Machine.execCrc16 bytes s
  | .calculateCRC start length => Sys2Proof.Machine.execCalculateCRC start length s
  | .writeCRC length => Sys2Proof.Machine.execWriteCRC length s
  | .checkFrameCRC fs n => Sys2Proof.Machine.execCheckFrameCRC fs n s
  | .encodeRequest a f payload => Sys2Proof.Machine.execEncodeRequest a f payload s
  | .addUnicast op sub a f payload => Sys2Proof.Machine.execAddUnicast op sub a f payload s
  | .addBroadcast op sub a f payload => Sys2Proof.Machine.execAddBroadcast op sub a f payload s
  | .lookup sub a => Sys2Proof.Machine.execLookup sub a s
  | .actuatorIdOf dt ix => Sys2Proof.Machine.execActuatorIdOf dt ix s
  | .decodeBuffer sub ws => Sys2Proof.Machine.execDecodeBuffer sub ws s
  | .decodeFrame sub => Sys2Proof.Machine.execDecodeFrame sub s
  | .dispatch f fn => Sys2Proof.Machine.execDispatch f fn s
  | .clearBusList op => Sys2Proof.Machine.execClearBusList op s
  | .runCycle op t => Sys2Proof.Machine.execRunCycle op t s
  | .verifyResponses => Sys2Proof.Machine.execVerifyResponses s
  | .raise kind aid => Sys2Proof.Machine.execRaise kind aid s
  | .loadConfiguration map => Sys2Proof.Machine.execLoadConfiguration map s

end Sys2Proof.Machine
end

