-- ==== Sys2Proof/Machine/Fetch.lean ====
section
/-! DEFINITION. Taking the inputs of a step, and fetching, decoding and running the call at the head of the queue. -/
namespace Sys2Proof.Machine

/-- The inputs of this step: the next scheduled ones, or those that stand (log 7). -/
def State.tick (s : State) : State :=
  { s with env := s.schedule.headD s.env, schedule := s.schedule.tail }

/-- What the control thread does with the call at the head of the queue; with no call pending it goes on with a
running cycle, or waits (R370, log 24). -/
def serve (s : State) : Host.Outcome State Fault Refusal :=
  match s.port with
  | [] => outcome (advance s)
  | w :: ws =>
    match decode (w :: ws) with
    | .error e => .refused (.undecodable e)
    | .ok (i, rest) => exec i { s with port := rest }

end Sys2Proof.Machine
end

