-- ==== Sys2Proof/Machine/Step.lean ====
section
/-! DEFINITION. One step of the machine. -/
namespace Sys2Proof.Machine

/-- One step. After a model fault or a refusal the model takes no further step (R27, R348). -/
def step (s : State) : Host.Outcome State Fault Refusal :=
  match s.faulted with
  | some f => .fault f
  | none =>
    match s.refusalMark with
    | some r => .refused r
    | none => serve s.tick

/-- The state whose next step runs the instruction whose first `nbits` bits, numbered as spec/opcode_table.json
numbers them, are `w` and whose other bits are 0: it is the one pending call (log 4). -/
def State.withFetchWord (s : State) (nbits w : Nat) : State := { s with port := tableWords nbits w }

end Sys2Proof.Machine
end

