-- ==== Sys2Proof/Safety.lean ====
section
/-! DEFINITION. What counts as a safe state and a safe run, and the terms the statements use. -/
namespace Sys2Proof.Safety

open Sys2Proof.Machine

/-- A run of `k` steps from `s` is safe if no step of it ends in a fault or a refusal. -/
def RunsSafely (k : Nat) (s : State) : Prop := ∃ t, Host.Core.run core k s = .next t

/-- The words `ws` stand at the indices `i`, `i + 1`, …, all below `len`. -/
def AtIndex (s : State) (i : Nat) (ws : List Word) : Prop :=
  ∀ j, j < ws.length → wordAt s (i + j) = ws[j]?

/-- The words `ws` stand at the cursor. -/
def AtCursor (s : State) (ws : List Word) : Prop := AtIndex s s.idx ws

/-- The buffer's form (R10 to R12): the words below `len` hold a value and no others do, the cursor is at most
`len`, and `len` at most P_BUF_WORDS. -/
structure BufferOk (s : State) : Prop where
  words : s.buf.map (fun p => p.1) = List.range s.len
  cursor : s.idx ≤ s.len
  room : s.len ≤ s.capacity

/-- The words of one request frame (R68, R160): address, function and payload, then the CRC over exactly these
bytes (R69), low byte first. -/
def requestWords (a f : Byte) (payload : List Byte) : List Word :=
  (a :: f :: payload).map txdWord ++
    [txdWord ((crc16 (a :: f :: payload)).extractLsb' 0 8), txdWord ((crc16 (a :: f :: payload)).extractLsb' 8 8)]

/-- A bus-list item as R14 describes it; the subnet of a broadcast is the one its caller gave (R162, log 28). -/
structure ItemOk (it : Item) : Prop where
  subnet : it.broadcast = false → 1 ≤ it.subnet ∧ it.subnet ≤ 5
  frame : ∃ payload, it.words = requestWords it.address it.function payload
  unicast : it.broadcast = false → it.channel.isSome = true
  broadcast : it.broadcast = true → it.expects = false ∧ it.channel = none

/-- The invariant of the block: what 10_state.md says of its state in every reachable state. -/
structure Inv (s : State) : Prop where
  /-- R10 to R12 -/
  buffer : BufferOk s
  /-- the buffer's memory is in its canonical form -/
  memory : s.buf.wf = true
  /-- R14: the bus lists are in their canonical form -/
  busLists : keysRising s.busLists = true ∧ ∀ p ∈ s.busLists, p.2 ≠ []
  /-- R14 -/
  items : ∀ p ∈ s.busLists, ∀ it ∈ p.2, ItemOk it
  /-- R17: the address map is in its canonical form -/
  map : keysRising s.ilcMap = true
  /-- R15: one counter for each channel -/
  counters : s.faExp.length = s.params.nFA ∧ s.haExp.length = s.params.nHA ∧ s.hmExp.length = s.params.nHM
  /-- R28: one pair of flags for each force actuator -/
  flags : s.limitFlag.length = s.params.nFA ∧ s.feFlag.length = s.params.nFA
  /-- R20, R21: the lock is held exactly while a cycle is in progress -/
  lock : s.cycleBusy = true ↔ s.phase ≠ .idle

/-- `t` is `s` after the words `ws` were written at the cursor: the words before the cursor stand as they were, no
word after them holds a value (R11, R12), and nothing else changed. -/
structure Appended (s t : State) (ws : List Word) : Prop where
  cursor : t.idx = s.idx + ws.length
  length : t.len = s.idx + ws.length
  memory : ∀ a, t.buf.read a = if a < s.idx then s.buf.read a else ws[a - s.idx]?
  frame : t = { s with buf := t.buf, idx := t.idx, len := t.len }

/-- The buffer of `t` holds exactly `ws`, with the cursor at the end. -/
structure HoldsExactly (t : State) (ws : List Word) : Prop where
  cursor : t.idx = ws.length
  length : t.len = ws.length
  memory : ∀ a, t.buf.read a = ws[a]?

/-- `t` is `s` after one item was appended to `bus_list[op]`: the buffer was used for its frame, the broadcast
counter is `ctr`, and nothing else changed. -/
structure Queued (s t : State) (op : Op) (it : Item) (ctr : BitVec 4) : Prop where
  list : busList op t = busList op s ++ [it]
  others : ∀ op', op' ≠ op → busList op' t = busList op' s
  buffer : HoldsExactly t it.words
  frame : t = { s with buf := t.buf, idx := t.idx, len := t.len, busLists := t.busLists, bcastCtr := ctr }

/-- The `k` binary32 patterns that `4 * k` wire bytes carry in the order `o` (R43, R73). -/
def floatsOf (o : FloatOrder) (bs : List Byte) (k : Nat) : List F32 :=
  (List.range k).map fun i => floatOf o ((bs.drop (4 * i)).take 4)

/-- The decoded-frame record of R250. -/
def record (f : Routed) (fn : Byte) (fields : Fields) : Event :=
  .frame
    { subnet := f.subnet, addr := f.addr, deviceType := f.ch.deviceType, dataIndex := f.ch.dataIndex
      secondaryDataIndex := f.ch.secondaryDataIndex, actuatorId := f.ch.actuatorId
      function := fn, timestamp := f.ts, fields := fields }

/-- `s` after a handler with no check: the k payload words are read, then the record is emitted, and nothing else
changed. -/
def delivered (s : State) (f : Routed) (fn : Byte) (fields : Fields) : State :=
  { s with idx := s.idx + f.k, out := s.out ++ [record f fn fields] }

/-- The warning record `raise K(aid)` makes (R330, R313). -/
def warning (s : State) (k : WarnKind) (aid : Int) : WarnRec := ⟨s.tCycle, aid, some k⟩

/-- `s` after one warning (R330): `warn_rec` is overwritten and published, and nothing else changed. -/
def warned (s : State) (k : WarnKind) (aid : Int) : State :=
  { s with warnRec := warning s k aid, out := s.out ++ [.warning (warning s k aid)] }

/-- Is the event a warning? -/
def isWarning : Event → Bool
  | .warning _ => true
  | _ => false

/-- A frame with a timestamp stands at the cursor (R67): data words that carry the address `a`, the function byte
`f`, the payload `p` and the CRC bytes `lo` and `hi`, and then a timestamp word. -/
def FrameHere (s : State) (a f : Byte) (p : List Byte) (lo hi : Byte) : Prop :=
  ∃ ws w, ws.map byteOf = a :: f :: (p ++ [lo, hi]) ∧ (∀ x ∈ ws, classify x = .data) ∧ classify w = .ts ∧
    AtCursor s (ws ++ [w])

/-- `s` after the validator has located the tail of such a frame, computed its CRC and read its timestamp (R211,
R214, R215). The cursor has not moved. -/
def validated (s : State) (a f : Byte) (p : List Byte) (lo hi : Byte) : State :=
  { s with
    fs := s.idx, tail := s.idx + (p.length + 4), n := p.length + 4
    crcCalc := crc16 (a :: f :: p), crcRx := hi ++ lo, ts := tsAt s (s.idx + (p.length + 4)) }

/-- `s` after the address and function bytes of such a frame are read too (R217). -/
def addressed (s : State) (a f : Byte) (p : List Byte) (lo hi : Byte) : State :=
  { validated s a f p lo hi with addr := a, fn := f, idx := s.idx + 2 }

/-- The ResponseTimeout warnings of one device type (R308), by ascending dataIndex. -/
def timeouts (dt : DeviceType) (s : State) : List Event :=
  ((s.exp dt).zipIdx.filter fun p => p.1 != 0).map fun p =>
    .warning (warning s .responseTimeout (actuatorIdOf dt p.2 s))

/-- How many items of a bus list expect a response from the channel (dt, i) (R303). -/
def requestsTo (items : List Item) (dt : DeviceType) (i : Nat) : Nat :=
  (items.filter fun it =>
    it.expects && it.channel.any fun c => decide (c.deviceType = dt) && decide (c.dataIndex = (i : Int))).length

/-- The counters of a device type after a bus list is issued: one more for each such item (R303). -/
def raised (items : List Item) (dt : DeviceType) (counters : List Int) : List Int :=
  counters.mapIdx fun i v => v + requestsTo items dt i

/-- `s` after a frame was routed to the channel `c`: its counter is one less, and nothing else changed (R220). -/
def countedDown (c : ILCMap) (s : State) : State :=
  let lowered (l : List Int) : List Int := l.mapIdx fun i v => if c.dataIndex = (i : Int) then v - 1 else v
  match c.deviceType with
  | .fa => { s with faExp := lowered s.faExp }
  | .ha => { s with haExp := lowered s.haExp }
  | .hm => { s with hmExp := lowered s.hmExp }

/-- The buffer decoded frame by frame: `k` times, each time from where the frame before left the cursor, until the
cursor is at the end (R210, R227, R375). -/
def FramesDecoded (sub : Int) : Nat → State → State → Prop
  | 0, s, t => s.len ≤ s.idx ∧ t = s
  | k + 1, s, t =>
    s.idx < s.len ∧ ∃ u, exec (.decodeFrame sub) s = .next u ∧ s.idx < u.idx ∧ FramesDecoded sub k u t

/-- The transport write of an issue: one write of the whole assembled sequence, with the number of its words (R301,
R304), whatever the list holds. -/
def issueWrite (items : List Item) (timeoutMs : Nat) : Event :=
  .transportWrite (assemble items) (assemble items).length timeoutMs

/-- `s` at the start of the cycle a request `(op, tm)` asks for (R301). -/
def started (op : Op) (tm : BitVec 64) (s : State) : State :=
  { s with
    cycleBusy := true, curOp := op, tCycle := tm, anyTimeout := false
    signaled := ⟨false, false, false, false, false⟩, phase := .issue }

/-- The phase after a subnet has been processed, in the order 1 to 5 (R2, R301). -/
def phaseBehind : SubnetNo → Phase
  | .one => .wait .two
  | .two => .wait .three
  | .three => .wait .four
  | .four => .wait .five
  | .five => .verify

/-- The words a transport read of subnet `n` returns: at most P_BUF_WORDS of the drawn ones (R306, log 25). -/
def responseWords (n : SubnetNo) (s : State) : List Word := (s.env.rx.get n).take s.capacity

/-- `u` is `s` after one phase of the running cycle (R301, R303 to R310): the issue, one subnet's wait, one subnet's
read and decode, or the verification with the report and the release of the lock. That the issue leaves the buffer
empty is log 13 (DEDUCED), and that a read's count is the number of returned words log 32 (DEDUCED). -/
def PhaseStep (s u : State) : Prop :=
  match s.phase with
  | .idle => u = s
  | .issue =>
    let items := busList s.curOp s
    u = { s with
      buf := [], len := 0, idx := 0
      faExp := raised items .fa s.faExp, haExp := raised items .ha s.haExp, hmExp := raised items .hm s.hmExp
      out := s.out ++ [issueWrite items s.params.writeTimeoutMs], phase := .wait .one }
  | .wait n =>
    u = { s with
      signaled := s.signaled.set n (s.env.signal.get n)
      phase := if s.env.signal.get n then .decode n else phaseBehind n }
  | .decode n =>
    ∃ v, exec (.decodeBuffer n.num (responseWords n s))
        { s with out := s.out ++
          [.transportRead n.num (responseWords n s).length s.params.readTimeoutMs] } = .next v ∧
      u = { v with phase := phaseBehind n }
  | .verify =>
    ∃ v, exec .verifyResponses s = .next v ∧
      u = { v with out := v.out ++ [.ilcCommunicationTimeout v.anyTimeout], phase := .idle, cycleBusy := false }

/-- `u` is `s` after `k` phases of the running cycle. -/
def PhaseSteps : Nat → State → State → Prop
  | 0, s, u => u = s
  | k + 1, s, u => ∃ v, PhaseStep s v ∧ PhaseSteps k v u

/-- How many subnets signal (R305). -/
def signalCount (p : PerSubnet Bool) : Nat :=
  ([SubnetNo.one, .two, .three, .four, .five].filter fun n => p.get n).length

/-- A configured, idle block with no mark set whose pending calls are cycle requests. -/
def ServesCycles (s : State) : Prop :=
  s.faulted = none ∧ s.refusalMark = none ∧ s.configured = true ∧ s.phase = .idle ∧ s.cycleBusy = false ∧
    ∃ requests : List (Op × BitVec 64), s.port = requests.flatMap fun r => encode (.runCycle r.1 r.2)

/-- The constraints of R194 on one entry of P_ILC_MAP, and its place in the table (R17, R191). -/
structure EntryOk (p : Params) (e : MapEntry) : Prop where
  subnet : 1 ≤ e.subnet ∧ e.subnet ≤ 5
  fa : e.channel.deviceType = .fa →
    1 ≤ e.address.toNat ∧ e.address.toNat ≤ 46 ∧ (e.address.toNat ≤ 16 ↔ e.channel.secondaryDataIndex = -1)
  ha : e.channel.deviceType = .ha → 1 ≤ e.address.toNat ∧ e.address.toNat ≤ 6
  hm : e.channel.deviceType = .hm → 84 ≤ e.address.toNat ∧ e.address.toNat ≤ 89 ∧ e.subnet = 5
  notBroadcast : e.address ≠ 248#8 ∧ e.address ≠ 249#8
  index : 0 ≤ e.channel.dataIndex ∧ e.channel.dataIndex < channelCount p e.channel.deviceType
  orientation : e.channel.orientation ∈ [Orientation.plusX, .minusX, .plusY, .minusY]

/-- The constraints of R194 on a whole P_ILC_MAP. -/
structure MapOk (p : Params) (es : List MapEntry) : Prop where
  entries : ∀ e ∈ es, EntryOk p e
  places : es.Pairwise fun e e' => ¬(e.subnet = e'.subnet ∧ e.address = e'.address)
  indices : es.Pairwise fun e e' =>
    ¬(e.channel.deviceType = e'.channel.deviceType ∧ e.channel.dataIndex = e'.channel.dataIndex)

end Sys2Proof.Safety
end

