-- ==== Sys2Proof/Certificates/Slice0/Obligations.lean ====
section
/-! DEFINITION. The statements for the provers. Each says in its docstring which rules of spec/ it formalises, or that it
states the model's own choice and in which log entry. -/

open Sys2Proof Sys2Proof.Machine Sys2Proof.Safety

/-- State.reset has an empty buffer with len and idx 0, bcast_ctr 0, every bus list empty, every counter 0, every map
entry INVALID, phase Idle, every signaled flag, any_timeout and cycle_busy false, the warning record {0, -1, none},
every limit and following-error flag false, and both marks clear. The values are those of R371, a decision of the spec
(D35). That a field says whether a configuration has been loaded, and that it is false, is the model's (log 35,
DEDUCED); the counters and flags are as many as P_N_FA, P_N_HA and P_N_HM, which are open (log 8). (R371,
70_reset_and_hazards.md D35) -/
def Obligations.ResetState : Prop :=
  State.reset.buf = [] ∧ State.reset.len = 0 ∧ State.reset.idx = 0 ∧ State.reset.bcastCtr = 0#4 ∧
    (∀ op, busList op State.reset = []) ∧
    (∀ dt, ∀ c ∈ State.reset.exp dt, c = 0) ∧
    (∀ sub a, 1 ≤ sub → sub ≤ 5 → lookup sub a State.reset = .invalid) ∧
    State.reset.phase = .idle ∧ (∀ n, State.reset.signaled.get n = false) ∧
    State.reset.anyTimeout = false ∧ State.reset.cycleBusy = false ∧
    State.reset.warnRec = ⟨0#64, -1, none⟩ ∧
    (∀ f ∈ State.reset.limitFlag, f = ⟨false, false⟩) ∧ (∀ f ∈ State.reset.feFlag, f = ⟨false, false⟩) ∧
    State.reset.faulted = none ∧ State.reset.refusalMark = none ∧ State.reset.configured = false ∧
    State.reset.faExp.length = State.reset.params.nFA ∧ State.reset.haExp.length = State.reset.params.nHA ∧
    State.reset.hmExp.length = State.reset.params.nHM ∧
    State.reset.limitFlag.length = State.reset.params.nFA ∧ State.reset.feFlag.length = State.reset.params.nFA

/-- Inv holds of State.reset. (R371, 10_state.md §9) -/
def Obligations.ResetMeetsInvariant : Prop :=
  Inv State.reset

/-- For every state that meets Inv, reached or not, if step answers a next state then that state meets Inv: the buffer
holds values exactly below len, idx is at most len and len at most P_BUF_WORDS, the keyed lists are in canonical form,
every bus-list item is a request frame of a legal kind, a unicast one on a subnet 1 to 5, there is one counter for
each channel and one flag pair for each force actuator, and the lock is held exactly outside phase Idle. (R10, R11,
R12, R14, R15, R17, R20, R21, R28) -/
def Obligations.StepKeepsInvariant : Prop :=
  ∀ s t : State, Inv s → step s = .next t → Inv t

/-- For every well-formed instruction of every family and any words behind it, decode of encode i followed by those
words gives i and exactly those words; and whatever words are decoded, the instruction they give is well-formed. The
layout of calls is the model's own (DESIGN CHOICE, log 1); transport words are the spec's. (30_encoding.md §1,
spec/opcode_table.json, R61, R62, R63, R64) -/
def Obligations.DecodeEncodeRoundTrip : Prop :=
  (∀ (i : Instr) (rest : List Word), i.wf = true → decode (encode i ++ rest) = .ok (i, rest)) ∧
    ∀ (ws rest : List Word) (i : Instr), decode ws = .ok (i, rest) → i.wf = true

/-- For every byte, the word (b << 1) | 0x9000 decodes to RXD b and the word 0xB000 | b to TSW b, and the byte
extractors w[8:1] and w[7:0] give b back. That a transport word stands for itself at the call port is the model's
choice (log 1, DESIGN CHOICE), and so is that it decodes to RXD or TSW and not to the class row that also matches it
(log 2, DEDUCED). (R62, R63, R6) -/
def Obligations.InboundWordsDecode : Prop :=
  ∀ (b : Byte) (rest : List Word),
    decode (((b.setWidth 16 <<< 1) ||| 0x9000#16) :: rest) = .ok (.rxd b, rest) ∧
    byteOf ((b.setWidth 16 <<< 1) ||| 0x9000#16) = b ∧
    decode ((0xB000#16 ||| b.setWidth 16) :: rest) = .ok (.tsw b, rest) ∧
    tsByteOf (0xB000#16 ||| b.setWidth 16) = b

/-- 0x1296 is TXD 0x4B, 0x9096 is RXD 0x4B, 0xB034 is TSW 0x34, 0xA000 is EOF, 0xB134 is of class TS, 0xA001 of class
EOFW and 0x9001 of class DATA; the call word 0x0011 with zero operands is the FA ReportServerID response (function
17). That a transport word stands for itself at the call port and that a call word holds the function byte are the
model's choices (log 1, DESIGN CHOICE); that 0x1296, 0x9096, 0xB034 and 0xA000 decode to TXD, RXD, TSW and EOF and not
to the class row whose pattern also matches is read from the spec by inference (log 2, DEDUCED). (30_encoding.md §1,
95_test_vectors.md) -/
def Obligations.KnownWordsDecode : Prop :=
  decode [0x1296#16] = .ok (.txd 0x4B#8, []) ∧ decode [0x9096#16] = .ok (.rxd 0x4B#8, []) ∧
    decode [0xB034#16] = .ok (.tsw 0x34#8, []) ∧ decode [0xA000#16] = .ok (.eof, []) ∧
    decode [0xB134#16] = .ok (.classTs 0xB134#16, []) ∧ decode [0xA001#16] = .ok (.classEofw 0xA001#16, []) ∧
    decode [0x9001#16] = .ok (.classData 0x9001#16, []) ∧
    decode (0x0011#16 :: List.replicate 10 0#16) =
      .ok (.rspFaReportServerID ⟨⟨.fa, 0, 0, 0, 0, 0, .plusX⟩, 0, 0#8, 0, 0#64⟩, [])

/-- When neither mark is set and the words at the call port decode to an instruction i, step takes the inputs of this
step (the next scheduled ones, or those that stand), removes the call from the port and is exec of i there. That
instructions come as calls at a port is the model's choice (log 1, log 4, log 7). (R51, R302, 10_state.md §8) -/
def Obligations.StepRunsTheDecodedInstruction : Prop :=
  ∀ (s : State) (i : Instr) (rest : List Word),
    s.faulted = none → s.refusalMark = none → decode s.port = .ok (i, rest) →
    step s = exec i { s with env := s.schedule.headD s.env, schedule := s.schedule.tail, port := rest }

/-- With the fault mark set a step is that fault, and with the refusal mark set that refusal: that the marks are
fields which a step answers is the model's choice (log 23). With neither set and no pending call, a step takes the
inputs of this step and goes on with the running cycle by one phase, and an idle block only waits: that inputs are
renewed before each step, that calls wait in a queue and that a cycle goes on phase by phase are the model's choices
(log 7, log 4, log 24). Of such a phase, that the issue leaves the buffer empty (log 13), that a Transport.read
carries the number of returned words as its count (log 32) and that an empty bus list is assembled to no words (log
40) are read from the spec by inference (DEDUCED). Words that decode to nothing are refused with the reason (log 1).
(R27, R348, R370, R301, R343) -/
def Obligations.StepWithNoCallOrNoInstruction : Prop :=
  ∀ s : State,
    (∀ f, s.faulted = some f → step s = .fault f) ∧
    (∀ r, s.faulted = none → s.refusalMark = some r → step s = .refused r) ∧
    (s.faulted = none → s.refusalMark = none →
      (s.port = [] → s.phase = .idle →
        step s = .next { s with env := s.schedule.headD s.env, schedule := s.schedule.tail }) ∧
      (s.port = [] → ∃ u,
        PhaseStep { s with env := s.schedule.headD s.env, schedule := s.schedule.tail } u ∧ step s = .next u) ∧
      (∀ e, s.port ≠ [] → decode s.port = .error e → step s = .refused (.undecodable e)))

/-- With room at the cursor, writeU8(v) and writeI8(v) complete: the word TXD(v[7:0]) stands at the old cursor, idx
and len are one past it, every earlier word reads as before, no later word holds a value, and nothing else changed. At
index P_BUF_WORDS each of them faults with BufferOverflow. (R123, R124) -/
def Obligations.ByteWritesStoreOneWord : Prop :=
  ∀ (v : Int) (s : State),
    (s.idx < s.capacity →
      (∃ t, exec (.writeU8 v) s = .next t ∧ Appended s t [txdWord (BitVec.ofInt 8 v)]) ∧
      (∃ t, exec (.writeI8 v) s = .next t ∧ Appended s t [txdWord (BitVec.ofInt 8 v)])) ∧
    (s.capacity ≤ s.idx →
      exec (.writeU8 v) s = .fault .bufferOverflow ∧ exec (.writeI8 v) s = .fault .bufferOverflow)

/-- With room at the cursor, TXD(b), the five CW rows and the six control-word operations complete: the byte's TX data
word, the end-of-frame word 0xA000 or the operation's control word stands at the old cursor, idx and len are one past
it, every earlier word reads as before, and nothing else changed. At or past index P_BUF_WORDS each of them faults
with BufferOverflow (the spec's decision D27). No control word matches the TX data pattern. That running a TXD or CW
row writes its word at the cursor is the model's choice (log 3, DESIGN CHOICE), and so is that a control operation
writes one word (log 14, DESIGN CHOICE). (R61, R65, R139, R140, R141, R142, R143, R144, R47) -/
def Obligations.WordWritesStoreOneWord : Prop :=
  ∀ (b : Byte) (k : Nat) (s : State),
    (s.idx < s.capacity →
      (∃ t, exec (.txd b) s = .next t ∧ Appended s t [txdWord b]) ∧
      (∃ t, exec (.cwLength k) s = .next t ∧ Appended s t [controlWord (.length k)]) ∧
      (∃ t, exec (.cwSwTrigger) s = .next t ∧ Appended s t [controlWord .softwareTrigger]) ∧
      (∃ t, exec (.cwDelay k) s = .next t ∧ Appended s t [controlWord (.delay k)]) ∧
      (∃ t, exec (.cwTimestamp) s = .next t ∧ Appended s t [controlWord .timestamp]) ∧
      (∃ t, exec (.cwTriggerIrq) s = .next t ∧ Appended s t [controlWord .triggerIRQ]) ∧
      (∃ t, exec (.writeEndOfFrame) s = .next t ∧ Appended s t [0xA000#16]) ∧
      (∃ t, exec (.writeSoftwareTrigger) s = .next t ∧ Appended s t [controlWord .softwareTrigger]) ∧
      (∃ t, exec (.writeDelay k) s = .next t ∧ Appended s t [controlWord (.delay k)]) ∧
      (∃ t, exec (.writeTimestamp) s = .next t ∧ Appended s t [controlWord .timestamp]) ∧
      (∃ t, exec (.writeTriggerIRQ) s = .next t ∧ Appended s t [controlWord .triggerIRQ]) ∧
      (∃ t, exec (.writeLength k) s = .next t ∧ Appended s t [controlWord (.length k)])) ∧
    (s.capacity ≤ s.idx →
      exec (.txd b) s = .fault .bufferOverflow ∧
      exec (.cwLength k) s = .fault .bufferOverflow ∧
      exec (.cwSwTrigger) s = .fault .bufferOverflow ∧
      exec (.cwDelay k) s = .fault .bufferOverflow ∧
      exec (.cwTimestamp) s = .fault .bufferOverflow ∧
      exec (.cwTriggerIrq) s = .fault .bufferOverflow ∧
      exec (.writeEndOfFrame) s = .fault .bufferOverflow ∧
      exec (.writeSoftwareTrigger) s = .fault .bufferOverflow ∧
      exec (.writeDelay k) s = .fault .bufferOverflow ∧
      exec (.writeTimestamp) s = .fault .bufferOverflow ∧
      exec (.writeTriggerIRQ) s = .fault .bufferOverflow ∧
      exec (.writeLength k) s = .fault .bufferOverflow) ∧
    (∀ c, controlWord c &&& 0xFE01#16 ≠ 0x1200#16)

/-- With room for all their words, writeU16, writeI16, writeI24, writeU32 and writeI32 complete with one TX data word
per byte of the two's-complement pattern, most significant byte first, and writeSGL with the four bytes of the pattern
in the order P_FLOAT_ORDER; idx and len are past the last word, every earlier word reads as before, and nothing else
changed. With less room each of them faults with BufferOverflow. (R47, R125, R126, R127, R128, R129, R130, R42, R43,
R73) -/
def Obligations.WideWritesStoreTheirWords : Prop :=
  ∀ (v : Int) (p : F32) (s : State),
    (s.idx + 2 ≤ s.capacity → ∃ t, exec (.writeU16 v) s = .next t ∧
      Appended s t [txdWord ((BitVec.ofInt 16 v).extractLsb' 8 8), txdWord ((BitVec.ofInt 16 v).extractLsb' 0 8)]) ∧
    (s.idx + 2 ≤ s.capacity → ∃ t, exec (.writeI16 v) s = .next t ∧
      Appended s t [txdWord ((BitVec.ofInt 16 v).extractLsb' 8 8), txdWord ((BitVec.ofInt 16 v).extractLsb' 0 8)]) ∧
    (s.idx + 3 ≤ s.capacity → ∃ t, exec (.writeI24 v) s = .next t ∧
      Appended s t [txdWord ((BitVec.ofInt 24 v).extractLsb' 16 8), txdWord ((BitVec.ofInt 24 v).extractLsb' 8 8), txdWord ((BitVec.ofInt 24 v).extractLsb' 0 8)]) ∧
    (s.idx + 4 ≤ s.capacity → ∃ t, exec (.writeU32 v) s = .next t ∧
      Appended s t [txdWord ((BitVec.ofInt 32 v).extractLsb' 24 8), txdWord ((BitVec.ofInt 32 v).extractLsb' 16 8), txdWord ((BitVec.ofInt 32 v).extractLsb' 8 8), txdWord ((BitVec.ofInt 32 v).extractLsb' 0 8)]) ∧
    (s.idx + 4 ≤ s.capacity → ∃ t, exec (.writeI32 v) s = .next t ∧
      Appended s t [txdWord ((BitVec.ofInt 32 v).extractLsb' 24 8), txdWord ((BitVec.ofInt 32 v).extractLsb' 16 8), txdWord ((BitVec.ofInt 32 v).extractLsb' 8 8), txdWord ((BitVec.ofInt 32 v).extractLsb' 0 8)]) ∧
    (s.idx + 4 ≤ s.capacity → s.params.floatOrder = .lsbFirst → ∃ t, exec (.writeSGL p) s = .next t ∧
      Appended s t [txdWord (p.extractLsb' 0 8), txdWord (p.extractLsb' 8 8), txdWord (p.extractLsb' 16 8), txdWord (p.extractLsb' 24 8)]) ∧
    (s.idx + 4 ≤ s.capacity → s.params.floatOrder = .msbFirst → ∃ t, exec (.writeSGL p) s = .next t ∧
      Appended s t [txdWord (p.extractLsb' 24 8), txdWord (p.extractLsb' 16 8), txdWord (p.extractLsb' 8 8), txdWord (p.extractLsb' 0 8)]) ∧
    (s.capacity < s.idx + 2 → exec (.writeU16 v) s = .fault .bufferOverflow) ∧
    (s.capacity < s.idx + 2 → exec (.writeI16 v) s = .fault .bufferOverflow) ∧
    (s.capacity < s.idx + 3 → exec (.writeI24 v) s = .fault .bufferOverflow) ∧
    (s.capacity < s.idx + 4 → exec (.writeU32 v) s = .fault .bufferOverflow) ∧
    (s.capacity < s.idx + 4 → exec (.writeI32 v) s = .fault .bufferOverflow) ∧
    (s.capacity < s.idx + 4 → exec (.writeSGL p) s = .fault .bufferOverflow)

/-- With a word w at the cursor, readU8 completes and returns w[8:1] as 0 to 255, readI8 returns it as -128 to 127;
the cursor moves by one and nothing else changes. With no word there, each of them faults with BufferOverrun. (R131,
R132) -/
def Obligations.ByteReadsTakeOneWord : Prop :=
  ∀ s : State,
    (∀ w, AtCursor s [w] →
      exec .readU8 s = .next { s with idx := s.idx + 1, ret := .int (w.extractLsb' 1 8).toNat } ∧
      exec .readI8 s = .next { s with idx := s.idx + 1, ret := .int (w.extractLsb' 1 8).toInt }) ∧
    (wordAt s s.idx = none →
      exec .readU8 s = .fault .bufferOverrun ∧ exec .readI8 s = .fault .bufferOverrun)

/-- With enough words at the cursor, readU16, readI16, readI24, readU32 and readI32 complete and return the bytes most
significant first, unsigned or in two's complement; readCRC returns the first byte as the low one; readSGL returns the
pattern in the order P_FLOAT_ORDER. The cursor moves past the words read and nothing else changes. Where fewer words
stand below len, each of them faults with BufferOverrun. (R47, R133, R134, R135, R136, R137, R138, R149, R42, R43,
R44, R73) -/
def Obligations.WideReadsTakeTheirBytes : Prop :=
  ∀ (s : State) (w0 w1 w2 w3 : Word),
    (AtCursor s [w0, w1] → exec .readU16 s = .next { s with idx := s.idx + 2, ret := .int (byteOf w0 ++ byteOf w1).toNat }) ∧
    (AtCursor s [w0, w1] → exec .readI16 s = .next { s with idx := s.idx + 2, ret := .int (byteOf w0 ++ byteOf w1).toInt }) ∧
    (AtCursor s [w0, w1, w2] → exec .readI24 s = .next { s with idx := s.idx + 3, ret := .int (byteOf w0 ++ byteOf w1 ++ byteOf w2).toInt }) ∧
    (AtCursor s [w0, w1, w2, w3] → exec .readU32 s = .next { s with idx := s.idx + 4, ret := .int (byteOf w0 ++ byteOf w1 ++ byteOf w2 ++ byteOf w3).toNat }) ∧
    (AtCursor s [w0, w1, w2, w3] → exec .readI32 s = .next { s with idx := s.idx + 4, ret := .int (byteOf w0 ++ byteOf w1 ++ byteOf w2 ++ byteOf w3).toInt }) ∧
    (AtCursor s [w0, w1] → exec .readCRC s = .next { s with idx := s.idx + 2, ret := .word (byteOf w1 ++ byteOf w0) }) ∧
    (AtCursor s [w0, w1, w2, w3] → s.params.floatOrder = .lsbFirst →
      exec .readSGL s = .next { s with idx := s.idx + 4, ret := .float (byteOf w3 ++ byteOf w2 ++ byteOf w1 ++ byteOf w0) }) ∧
    (AtCursor s [w0, w1, w2, w3] → s.params.floatOrder = .msbFirst →
      exec .readSGL s = .next { s with idx := s.idx + 4, ret := .float (byteOf w0 ++ byteOf w1 ++ byteOf w2 ++ byteOf w3) }) ∧
    (s.len < s.idx + 2 → exec .readU16 s = .fault .bufferOverrun) ∧
    (s.len < s.idx + 2 → exec .readI16 s = .fault .bufferOverrun) ∧
    (s.len < s.idx + 3 → exec .readI24 s = .fault .bufferOverrun) ∧
    (s.len < s.idx + 4 → exec .readU32 s = .fault .bufferOverrun) ∧
    (s.len < s.idx + 4 → exec .readI32 s = .fault .bufferOverrun) ∧
    (s.len < s.idx + 2 → exec .readCRC s = .fault .bufferOverrun) ∧
    (s.len < s.idx + 4 → exec .readSGL s = .fault .bufferOverrun)

/-- After a typed write completes, setting the cursor back to where it wrote and reading with the read of the same
type returns the value written: reduced modulo 2^width for the unsigned types, to the two's-complement range for the
signed ones, and bit-exact for a float in either order. The read moves the cursor back to the end and changes nothing
else. (R73, 41_wirebuffer.md §2, 41_wirebuffer.md §3) -/
def Obligations.TypedReadsInvertTypedWrites : Prop :=
  ∀ (v : Int) (p : F32) (s t : State),
    (exec (.writeU8 v) s = .next t → exec .readU8 { t with idx := s.idx } = .next { t with ret := .int (v % 2 ^ 8) }) ∧
    (exec (.writeI8 v) s = .next t → exec .readI8 { t with idx := s.idx } = .next { t with ret := .int (v.bmod (2 ^ 8)) }) ∧
    (exec (.writeU16 v) s = .next t → exec .readU16 { t with idx := s.idx } = .next { t with ret := .int (v % 2 ^ 16) }) ∧
    (exec (.writeI16 v) s = .next t → exec .readI16 { t with idx := s.idx } = .next { t with ret := .int (v.bmod (2 ^ 16)) }) ∧
    (exec (.writeI24 v) s = .next t → exec .readI24 { t with idx := s.idx } = .next { t with ret := .int (v.bmod (2 ^ 24)) }) ∧
    (exec (.writeU32 v) s = .next t → exec .readU32 { t with idx := s.idx } = .next { t with ret := .int (v % 2 ^ 32) }) ∧
    (exec (.writeI32 v) s = .next t → exec .readI32 { t with idx := s.idx } = .next { t with ret := .int (v.bmod (2 ^ 32)) }) ∧
    (exec (.writeSGL p) s = .next t → exec .readSGL { t with idx := s.idx } = .next { t with ret := .float p })

/-- With room for one word, RXD(b) returns the byte b and leaves the cursor at 1, TSW(b) returns the timestamp with
low byte b and leaves it at 1, EOF returns true and leaves it at 1, and the three class rows return the class of their
word and leave the cursor at 0; in each case the buffer holds exactly that word and nothing else changes. That running
an inbound word means a one-word load and a read is the model's choice (log 3). (R62, R63, R64, R66, R121, R131, R146,
R147, R148) -/
def Obligations.InboundWordRowsComplete : Prop :=
  ∀ (b : Byte) (w : Word) (s : State), 1 ≤ s.capacity →
    exec (.rxd b) s = .next { s with buf := [(0, rxdWord b)], len := 1, idx := 1, ret := .int b.toNat } ∧
    exec (.tsw b) s = .next { s with buf := [(0, tswWord b)], len := 1, idx := 1, ret := .stamp (b.setWidth 64) } ∧
    exec .eof s = .next { s with buf := [(0, 0xA000#16)], len := 1, idx := 1, ret := .bool true } ∧
    ((Instr.classTs w).wf = true →
      exec (.classTs w) s = .next { s with buf := [(0, w)], len := 1, idx := 0, ret := .wordClass .ts }) ∧
    ((Instr.classEofw w).wf = true →
      exec (.classEofw w) s = .next { s with buf := [(0, w)], len := 1, idx := 0, ret := .wordClass .eofw }) ∧
    ((Instr.classData w).wf = true →
      exec (.classData w) s = .next { s with buf := [(0, w)], len := 1, idx := 0, ret := .wordClass .data })

/-- reset completes in every state: idx and len are 0, no index holds a readable word, and every other field is
unchanged. (R120) -/
def Obligations.ResetEmptiesTheBuffer : Prop :=
  ∀ s : State, ∃ t, exec .reset s = .next t ∧ t.idx = 0 ∧ t.len = 0 ∧ (∀ a, t.buf.read a = none) ∧
    t = { s with buf := t.buf, idx := t.idx, len := t.len }

/-- A load of at most P_BUF_WORDS words completes: len is their number, idx is 0, index a reads word a and no other
index holds a value, and nothing else changes. A longer load faults with BufferOverflow. (R121, R12, R373) -/
def Obligations.LoadSetsTheBuffer : Prop :=
  ∀ (ws : List Word) (s : State),
    (ws.length ≤ s.capacity → ∃ t, exec (.load ws) s = .next t ∧ t.idx = 0 ∧ t.len = ws.length ∧
      (∀ a, t.buf.read a = ws[a]?) ∧ t = { s with buf := t.buf, idx := t.idx, len := t.len }) ∧
    (s.capacity < ws.length → exec (.load ws) s = .fault .bufferOverflow)

/-- endOfBuffer completes in every state, returns whether idx is at or past len, and changes no state. (R145) -/
def Obligations.EndOfBufferTellsTheCursor : Prop :=
  ∀ s : State, exec .endOfBuffer s = .next { s with ret := .bool (decide (s.idx ≥ s.len)) }

/-- endOfFrame completes in every state and changes no state: it returns true if the word at the cursor has tag nibble
0xA, false if it has another, and false where no word stands. In every state with idx at most len, skipToNextFrame
completes and moves only the cursor: to one past the first end-of-frame word at or after it, or to len if there is
none. (R146, R147, R66) -/
def Obligations.FrameBoundariesFollowTheEndOfFrameTag : Prop :=
  ∀ s : State,
    (∀ w, AtCursor s [w] →
      exec .endOfFrame s = .next { s with ret := .bool (decide (w.extractLsb' 12 4 = 0xA#4)) }) ∧
    (wordAt s s.idx = none → exec .endOfFrame s = .next { s with ret := .bool false }) ∧
    (s.idx ≤ s.len → ∃ t, exec .skipToNextFrame s = .next t ∧ t = { s with idx := t.idx } ∧
      ((∃ j, s.idx ≤ j ∧ j < s.len ∧ classAt s j .eofw = true ∧
          (∀ i, s.idx ≤ i → i < j → classAt s i .eofw = false) ∧ t.idx = j + 1) ∨
        ((∀ i, s.idx ≤ i → i < s.len → classAt s i .eofw = false) ∧ t.idx = s.len)))

/-- readTimestamp completes in every state: it takes the m at most 8 timestamp words from the cursor on, stops at the
first other word, moves the cursor by m, and returns the 64-bit value whose byte j is the byte of word j for j below m
and 0 for the others; nothing else changes. (R148, R45, R63) -/
def Obligations.ReadTimestampAssemblesTheBytes : Prop :=
  ∀ s : State, ∃ (m : Nat) (v : BitVec 64), m ≤ 8 ∧
    exec .readTimestamp s = .next { s with idx := s.idx + m, ret := .stamp v } ∧
    (∀ j, j < m → ∃ w, wordAt s (s.idx + j) = some w ∧ classify w = .ts ∧ v.extractLsb' (8 * j) 8 = tsByteOf w) ∧
    (m < 8 → classAt s (s.idx + m) .ts = false) ∧
    (∀ j, m ≤ j → j < 8 → v.extractLsb' (8 * j) 8 = 0#8)

/-- crc16 completes in every state and returns the fold of eight shift-right steps per byte (xor 0xA001 when the low
bit is set) from 0xFFFF; the empty sequence gives 0xFFFF, [00] 0x40BF, [FF] 0x00FF and "123456789" 0x4B37. When the
words of the span stand below len, calculateCRC completes and returns the CRC of their bytes w[8:1] whatever their
tags. Neither changes anything but the value returned. A span that ends past len faults with BufferOverrun. (R100,
R101, R66) -/
def Obligations.CrcOperationsArePure : Prop :=
  (∀ (bs : List Byte) (s : State),
    exec (.crc16 bs) s = .next { s with ret := .word (bs.foldl (fun c b =>
      (fun x : Word => if x.getLsbD 0 then (x >>> 1) ^^^ 0xA001#16 else x >>> 1)^[8] (c ^^^ b.setWidth 16))
      0xFFFF#16) }) ∧
    crc16 [] = 0xFFFF#16 ∧ crc16 [0x00#8] = 0x40BF#16 ∧ crc16 [0xFF#8] = 0x00FF#16 ∧
    crc16 [0x31#8, 0x32#8, 0x33#8, 0x34#8, 0x35#8, 0x36#8, 0x37#8, 0x38#8, 0x39#8] = 0x4B37#16 ∧
    (∀ (start : Nat) (ws : List Word) (s : State), AtIndex s start ws → start + ws.length ≤ s.len →
      exec (.calculateCRC start ws.length) s = .next { s with ret := .word (crc16 (ws.map byteOf)) }) ∧
    (∀ (start k : Nat) (s : State), s.len < start + k → exec (.calculateCRC start k) s = .fault .bufferOverrun)

/-- For every byte sequence m and bytes lo, hi: crc16(m ++ [lo, hi]) is 0 exactly when hi:lo is crc16(m). (R105,
40_crc.md §2) -/
def Obligations.CrcResidueIsZero : Prop :=
  ∀ (m : List Byte) (lo hi : Byte), crc16 (m ++ [lo, hi]) = 0#16 ↔ hi ++ lo = crc16 m

/-- For every message of at least two bytes followed by its two CRC bytes low byte first, and every position in the
whole frame, replacing the byte there by another makes the check fail. (R104, 40_crc.md §2) -/
def Obligations.CrcDetectsEveryByteError : Prop :=
  ∀ (m m' : List Byte) (lo hi lo' hi' b : Byte) (i : Nat),
    crc16 m = hi ++ lo → i < m.length + 2 → (m ++ [lo, hi])[i]? ≠ some b →
    m' ++ [lo', hi'] = (m ++ [lo, hi]).set i b → crc16 m' ≠ hi' ++ lo'

/-- When the last k words before the cursor carry the bytes bs as TX data words and there is room for two more,
writeCRC(k) completes and appends TXD(crc[7:0]) and TXD(crc[15:8]) of crc16(bs), and changes nothing else. A span
longer than what was written, or one that holds a word that is no TX data word, faults with CRCSpanInvalid; with no
room it faults with BufferOverflow. (R102, R44, R69) -/
def Obligations.WriteCrcAppendsTheCrc : Prop :=
  ∀ (s : State) (bs : List Byte),
    (bs.length ≤ s.idx → AtIndex s (s.idx - bs.length) (bs.map txdWord) →
      (s.idx + 2 ≤ s.capacity → ∃ t, exec (.writeCRC bs.length) s = .next t ∧
        Appended s t [txdWord ((crc16 bs).extractLsb' 0 8), txdWord ((crc16 bs).extractLsb' 8 8)]) ∧
      (s.capacity < s.idx + 2 → exec (.writeCRC bs.length) s = .fault .bufferOverflow)) ∧
    (∀ k, s.idx < k → exec (.writeCRC k) s = .fault .crcSpanInvalid) ∧
    (∀ ws : List Word, ws.length ≤ s.idx → AtIndex s (s.idx - ws.length) ws →
      (∃ w ∈ ws, w &&& 0xFE01#16 ≠ 0x1200#16) → exec (.writeCRC ws.length) s = .fault .crcSpanInvalid)

/-- When the n data words from fs carry the bytes m ++ [lo, hi], the check completes, returns whether crc16(m) equals
hi:lo, writes exactly that to crc_calc and crc_rx, and changes nothing else; the cursor does not move. R103 states
this for n at least 4; for n = 2 and n = 3 the model follows the rule's code, and for n below 2, where there are no
last two bytes, the check completes too: crc_calc and crc_rx take free values, of which nothing is known, the result
is whether they are equal, and the count of free values goes up by two (log 28, DESIGN CHOICE). For n at least 2,
where fewer than n words stand from fs, it faults with BufferOverrun. (R103, R22, R47) -/
def Obligations.FrameCrcCheck : Prop :=
  (∀ (s : State) (fs : Nat) (ws : List Word) (m : List Byte) (lo hi : Byte),
    AtIndex s fs ws → ws.map byteOf = m ++ [lo, hi] →
    exec (.checkFrameCRC fs ws.length) s =
      .next { s with crcCalc := crc16 m, crcRx := hi ++ lo, ret := .bool (decide (crc16 m = hi ++ lo)) }) ∧
    (∀ (s : State) (fs n : Nat), n < 2 → ∃ computed received : Word,
      exec (.checkFrameCRC fs n) s = .next { s with
        crcCalc := computed, crcRx := received, freeCount := s.freeCount + 2
        ret := .bool (decide (computed = received)) }) ∧
    (∀ (s : State) (fs n : Nat), 2 ≤ n → s.len < fs + n → exec (.checkFrameCRC fs n) s = .fault .bufferOverrun)

/-- With room for k + 4 words, encodeRequest completes for every address, function and payload of length k: the
buffer, freshly reset, holds exactly the frame's words, they are returned, and nothing else changes. With less room it
faults with BufferOverflow. (R160) -/
def Obligations.EncodeRequestBuildsTheFrame : Prop :=
  ∀ (a f : Byte) (p : List Byte) (s : State),
    (p.length + 4 ≤ s.capacity → ∃ t, exec (.encodeRequest a f p) s = .next t ∧
      HoldsExactly t (requestWords a f p) ∧ t.ret = .words (requestWords a f p) ∧
      t = { s with buf := t.buf, idx := t.idx, len := t.len, ret := t.ret }) ∧
    (s.capacity < p.length + 4 → exec (.encodeRequest a f p) s = .fault .bufferOverflow)

/-- For a mapped (subnet, address), a bus list no cycle holds, and room for the frame, addUnicast and each of the 22
unicast requests complete: one item is appended to bus_list[op], unicast, with the looked-up channel, the function
code of its rule, an expected response (for NopReportLVDT, as P_NOP_LVDT_EXPECTS says) and the request frame's words;
the buffer holds that frame and nothing else changes. The payload is an operand (log 16, DESIGN CHOICE). R178 and R179
give ForceDemandSingle the addresses 1 to 16 and ForceDemandDual the addresses 17 to 46 and say nothing of the others:
that both complete at every mapped address is the model's choice (log 28, DESIGN CHOICE, unsafe for a force demand
outside its range). (42_request_encoder.md §2 (R164 to R182, R185 to R189), R160, R161, R186, R82) -/
def Obligations.UnicastRequestsQueueOneFrame : Prop :=
  ∀ (op : Op) (sub : Int) (a : Byte) (p : List Byte) (c : ILCMap) (s : State),
    lookup sub a s = .channel c → busListHeld op s = false → p.length + 4 ≤ s.capacity →
    let queued (t : State) (f : Byte) (expects : Bool) : Prop :=
      Queued s t op ⟨sub, a, f, false, expects, some c, requestWords a f p⟩ s.bcastCtr
    (∃ t, exec (.reqReportServerID op sub a p) s = .next t ∧ queued t 17#8 true) ∧
    (∃ t, exec (.reqReportServerStatus op sub a p) s = .next t ∧ queued t 18#8 true) ∧
    (∃ t, exec (.reqChangeILCMode op sub a p) s = .next t ∧ queued t 65#8 true) ∧
    (∃ t, exec (.reqSetADCScanRate op sub a p) s = .next t ∧ queued t 80#8 true) ∧
    (∃ t, exec (.reqSetADCChannelOffsetAndSensitivity op sub a p) s = .next t ∧ queued t 81#8 true) ∧
    (∃ t, exec (.reqReset op sub a p) s = .next t ∧ queued t 107#8 true) ∧
    (∃ t, exec (.reqReadCalibration op sub a p) s = .next t ∧ queued t 110#8 true) ∧
    (∃ t, exec (.reqReportDCAPressure op sub a p) s = .next t ∧ queued t 119#8 true) ∧
    (∃ t, exec (.reqReportDCAID op sub a p) s = .next t ∧ queued t 120#8 true) ∧
    (∃ t, exec (.reqReportDCAStatus op sub a p) s = .next t ∧ queued t 121#8 true) ∧
    (∃ t, exec (.reqSetBoostValveDCAGains op sub a p) s = .next t ∧ queued t 73#8 true) ∧
    (∃ t, exec (.reqReadBoostValveDCAGains op sub a p) s = .next t ∧ queued t 74#8 true) ∧
    (∃ t, exec (.reqStepMotor op sub a p) s = .next t ∧ queued t 66#8 true) ∧
    (∃ t, exec (.reqForceDemandSingle op sub a p) s = .next t ∧ queued t 75#8 true) ∧
    (∃ t, exec (.reqForceDemandDual op sub a p) s = .next t ∧ queued t 75#8 true) ∧
    (∃ t, exec (.reqPneumaticForceStatus op sub a p) s = .next t ∧ queued t 76#8 true) ∧
    (∃ t, exec (.reqElectromechanicalForceAndStatus op sub a p) s = .next t ∧ queued t 67#8 true) ∧
    (∃ t, exec (.reqReportLVDT op sub a p) s = .next t ∧ queued t 122#8 true) ∧
    (∃ t, exec (.reqReportHMPressure op sub a p) s = .next t ∧ queued t 119#8 true) ∧
    (∃ t, exec (.reqReportHMMezzanineID op sub a p) s = .next t ∧ queued t 120#8 true) ∧
    (∃ t, exec (.reqReportHMMezzanineStatus op sub a p) s = .next t ∧ queued t 121#8 true) ∧
    (∃ t, exec (.reqNopReportLVDT op sub a p) s = .next t ∧
      queued t s.params.fnNopLvdt s.params.nopLvdtExpects) ∧
    (∀ f, ∃ t, exec (.addUnicast op sub a f p) s = .next t ∧ queued t f true)

/-- For a bus list no cycle holds and room for the frame, on any subnet number its caller gives (log 28, DESIGN
CHOICE), StepMotorBroadcast (address 249), ForceDemandBroadcast and both FreezeSensorValues (address 248), each with
its parameter's function code, and addBroadcast to 248 or 249 complete: one broadcast item that expects no response
and has no channel is appended, its frame carrying the payload with the broadcast counter embedded as P_BCAST_FIELD
says (log 17, DESIGN CHOICE), the counter goes up by one modulo 16, and nothing else changes but the buffer. (R162,
R163, R177, R180, R183, R184, R13) -/
def Obligations.BroadcastsQueueOneFrameAndCount : Prop :=
  ∀ (op : Op) (sub : Int) (f : Byte) (p : List Byte) (s : State),
    let p' := embedCounter s.params.bcastField p s.bcastCtr
    busListHeld op s = false → p'.length + 4 ≤ s.capacity →
    let queued (t : State) (a f : Byte) : Prop :=
      Queued s t op ⟨sub, a, f, true, false, none, requestWords a f p'⟩ (s.bcastCtr + 1#4)
    (∃ t, exec (.reqStepMotorBroadcast op sub p) s = .next t ∧ queued t 249#8 s.params.fnStepMotorBcast) ∧
    (∃ t, exec (.reqForceDemandBroadcast op sub p) s = .next t ∧ queued t 248#8 s.params.fnForceDemandBcast) ∧
    (∃ t, exec (.reqFreezeSensorValuesElectromechanical op sub p) s = .next t ∧
      queued t 248#8 s.params.fnFreezeEm) ∧
    (∃ t, exec (.reqFreezeSensorValuesPneumatic op sub p) s = .next t ∧ queued t 248#8 s.params.fnFreezePneu) ∧
    (∃ t, exec (.addBroadcast op sub 248#8 f p) s = .next t ∧ queued t 248#8 f) ∧
    (∃ t, exec (.addBroadcast op sub 249#8 f p) s = .next t ∧ queued t 249#8 f)

/-- With the bus list free, a unicast request (addUnicast and each catalogue form) to a (subnet, address) that lookup
does not resolve to a channel faults with UnmappedRequest, and so does addBroadcast to an address other than 248 and
249. The fault is the spec's decision D16. (R161, R162, R348) -/
def Obligations.UnmappedRequestsFault : Prop :=
  ∀ (op : Op) (sub : Int) (a f : Byte) (p : List Byte) (s : State), busListHeld op s = false →
    ((∀ c, lookup sub a s ≠ .channel c) →
      exec (.addUnicast op sub a f p) s = .fault .unmappedRequest ∧
      exec (.reqNopReportLVDT op sub a p) s = .fault .unmappedRequest ∧
      exec (.reqReportServerID op sub a p) s = .fault .unmappedRequest ∧
      exec (.reqReportServerStatus op sub a p) s = .fault .unmappedRequest ∧
      exec (.reqChangeILCMode op sub a p) s = .fault .unmappedRequest ∧
      exec (.reqSetADCScanRate op sub a p) s = .fault .unmappedRequest ∧
      exec (.reqSetADCChannelOffsetAndSensitivity op sub a p) s = .fault .unmappedRequest ∧
      exec (.reqReset op sub a p) s = .fault .unmappedRequest ∧
      exec (.reqReadCalibration op sub a p) s = .fault .unmappedRequest ∧
      exec (.reqReportDCAPressure op sub a p) s = .fault .unmappedRequest ∧
      exec (.reqReportDCAID op sub a p) s = .fault .unmappedRequest ∧
      exec (.reqReportDCAStatus op sub a p) s = .fault .unmappedRequest ∧
      exec (.reqSetBoostValveDCAGains op sub a p) s = .fault .unmappedRequest ∧
      exec (.reqReadBoostValveDCAGains op sub a p) s = .fault .unmappedRequest ∧
      exec (.reqStepMotor op sub a p) s = .fault .unmappedRequest ∧
      exec (.reqForceDemandSingle op sub a p) s = .fault .unmappedRequest ∧
      exec (.reqForceDemandDual op sub a p) s = .fault .unmappedRequest ∧
      exec (.reqPneumaticForceStatus op sub a p) s = .fault .unmappedRequest ∧
      exec (.reqElectromechanicalForceAndStatus op sub a p) s = .fault .unmappedRequest ∧
      exec (.reqReportLVDT op sub a p) s = .fault .unmappedRequest ∧
      exec (.reqReportHMPressure op sub a p) s = .fault .unmappedRequest ∧
      exec (.reqReportHMMezzanineID op sub a p) s = .fault .unmappedRequest ∧
      exec (.reqReportHMMezzanineStatus op sub a p) s = .fault .unmappedRequest) ∧
    (a ≠ 248#8 → a ≠ 249#8 → exec (.addBroadcast op sub a f p) s = .fault .unmappedRequest)

/-- While a cycle that issues bus_list[op] holds the lock, clearBusList, addUnicast, addBroadcast and each of the 26
requests of the catalogue on it are refused, whatever else stands against the request (log 41, DESIGN CHOICE).
Otherwise clearBusList completes, also while a cycle of another operation runs (log 37, DEDUCED): bus_list[op] is
empty, every other list is as before, and nothing else changes. (R377, R55, R300) -/
def Obligations.HeldBusListIsRefused : Prop :=
  ∀ (op : Op) (sub : Int) (a f : Byte) (p : List Byte) (s : State),
    (s.cycleBusy = true → s.curOp = op →
      exec (.clearBusList op) s = .refused (.busListLocked op) ∧
      exec (.addUnicast op sub a f p) s = .refused (.busListLocked op) ∧
      exec (.addBroadcast op sub a f p) s = .refused (.busListLocked op) ∧
      exec (.reqNopReportLVDT op sub a p) s = .refused (.busListLocked op) ∧
      exec (.reqReportServerID op sub a p) s = .refused (.busListLocked op) ∧
      exec (.reqReportServerStatus op sub a p) s = .refused (.busListLocked op) ∧
      exec (.reqChangeILCMode op sub a p) s = .refused (.busListLocked op) ∧
      exec (.reqSetADCScanRate op sub a p) s = .refused (.busListLocked op) ∧
      exec (.reqSetADCChannelOffsetAndSensitivity op sub a p) s = .refused (.busListLocked op) ∧
      exec (.reqReset op sub a p) s = .refused (.busListLocked op) ∧
      exec (.reqReadCalibration op sub a p) s = .refused (.busListLocked op) ∧
      exec (.reqReportDCAPressure op sub a p) s = .refused (.busListLocked op) ∧
      exec (.reqReportDCAID op sub a p) s = .refused (.busListLocked op) ∧
      exec (.reqReportDCAStatus op sub a p) s = .refused (.busListLocked op) ∧
      exec (.reqSetBoostValveDCAGains op sub a p) s = .refused (.busListLocked op) ∧
      exec (.reqReadBoostValveDCAGains op sub a p) s = .refused (.busListLocked op) ∧
      exec (.reqStepMotor op sub a p) s = .refused (.busListLocked op) ∧
      exec (.reqForceDemandSingle op sub a p) s = .refused (.busListLocked op) ∧
      exec (.reqForceDemandDual op sub a p) s = .refused (.busListLocked op) ∧
      exec (.reqPneumaticForceStatus op sub a p) s = .refused (.busListLocked op) ∧
      exec (.reqElectromechanicalForceAndStatus op sub a p) s = .refused (.busListLocked op) ∧
      exec (.reqReportLVDT op sub a p) s = .refused (.busListLocked op) ∧
      exec (.reqReportHMPressure op sub a p) s = .refused (.busListLocked op) ∧
      exec (.reqReportHMMezzanineID op sub a p) s = .refused (.busListLocked op) ∧
      exec (.reqReportHMMezzanineStatus op sub a p) s = .refused (.busListLocked op) ∧
      exec (.reqStepMotorBroadcast op sub p) s = .refused (.busListLocked op) ∧
      exec (.reqForceDemandBroadcast op sub p) s = .refused (.busListLocked op) ∧
      exec (.reqFreezeSensorValuesElectromechanical op sub p) s = .refused (.busListLocked op) ∧
      exec (.reqFreezeSensorValuesPneumatic op sub p) s = .refused (.busListLocked op)) ∧
    (¬(s.cycleBusy = true ∧ s.curOp = op) → ∃ t, exec (.clearBusList op) s = .next t ∧ busList op t = [] ∧
      (∀ op', op' ≠ op → busList op' t = busList op' s) ∧ t = { s with busLists := t.busLists })

/-- lookup completes in every state and returns UNKNOWN_SUBNET for a subnet outside 1 to 5, else the entry of ilc_map
at (subnet - 1, address): its descriptor, or INVALID where none is; nothing changes but the value returned. (R190) -/
def Obligations.LookupReadsTheMap : Prop :=
  ∀ (sub : Int) (a : Byte) (s : State),
    exec (.lookup sub a) s = .next { s with ret := .found (
      if sub < 1 ∨ sub > 5 then .unknownSubnet
      else match keyGet s.ilcMap (256 * (sub - 1).toNat + a.toNat) with
        | some c => .channel c
        | none => .invalid) }

/-- actuatorIdOf completes in every state and changes nothing but the value returned: the actuatorId of the entry with
that (device type, dataIndex) where all such entries agree, and -1 where there is none. (R195, R194) -/
def Obligations.ActuatorIdOfFindsTheChannel : Prop :=
  ∀ (dt : DeviceType) (i : Int) (s : State),
    (∀ p ∈ s.ilcMap, p.2.deviceType = dt → p.2.dataIndex = i →
      (∀ q ∈ s.ilcMap, q.2.deviceType = dt → q.2.dataIndex = i → q.2.actuatorId = p.2.actuatorId) →
      exec (.actuatorIdOf dt i) s = .next { s with ret := .int p.2.actuatorId }) ∧
    ((∀ p ∈ s.ilcMap, ¬(p.2.deviceType = dt ∧ p.2.dataIndex = i)) →
      exec (.actuatorIdOf dt i) s = .next { s with ret := .int (-1) })

/-- In phase Idle with the lock free, loadConfiguration of a P_ILC_MAP that meets the seven constraints of R194
completes: every entry is found by lookup, every other (subnet, address) is INVALID, the counter arrays have the sizes
P_N_FA, P_N_HA and P_N_HM and are 0, and nothing else changes. A map that breaks one of them, an orientation outside
the four values among them, faults with ConfigInvalid. The model's own in this: an entry outside subnets 1 to 5 counts
as breaking R194 (log 33, DEDUCED), the bit that a load has succeeded is set (log 35, DEDUCED), the load leaves the
parameters, which the model has fixed already (log 8, DESIGN CHOICE), and the check flags as they are (log 20, DESIGN
CHOICE). (R372, R193, R194, R15, R19, R28) -/
def Obligations.LoadConfigurationBuildsTheMap : Prop :=
  ∀ (es : List MapEntry) (s : State), s.phase = .idle → s.cycleBusy = false →
    (MapOk s.params es → ∃ t, exec (.loadConfiguration es) s = .next t ∧
      (∀ e ∈ es, lookup e.subnet e.address t = .channel e.channel) ∧
      (∀ sub a, 1 ≤ sub → sub ≤ 5 → (∀ e ∈ es, ¬(e.subnet = sub ∧ e.address = a)) → lookup sub a t = .invalid) ∧
      t = { s with
        ilcMap := t.ilcMap, configured := true
        faExp := List.replicate s.params.nFA 0, haExp := List.replicate s.params.nHA 0
        hmExp := List.replicate s.params.nHM 0 }) ∧
    (¬MapOk s.params es → exec (.loadConfiguration es) s = .fault .configInvalid)

/-- With k payload words at the cursor, k being the length the table gives, each of these thirteen response handlers
completes: the cursor moves past the k words and one decoded-frame record with the k bytes in word order is emitted;
nothing else changes. That ReportServerID delivers k bytes as the id for an overridden P_LEN_17 is the model's choice
(log 21, DESIGN CHOICE), and that the row makes the length check too (log 30, DESIGN CHOICE). (R250, R251, R81, R222,
R254, R268, R277, 45_response_handlers.md (R257, R261 to R263, R266), 45_response_handlers.md (R273 to R275),
45_response_handlers.md (R280, R282)) -/
def Obligations.RawResponsesDeliverTheirBytes : Prop :=
  ∀ (f : Routed) (ws : List Word) (s : State), AtCursor s ws → ws.length = f.k →
    (f.k = s.params.len73 → exec (.rspFaSetBoostValveDCAGains f) s = .next (delivered s f 73#8 (.raw (ws.map byteOf)))) ∧
    (f.k = s.params.len80 → exec (.rspFaSetADCScanRate f) s = .next (delivered s f 80#8 (.raw (ws.map byteOf)))) ∧
    (f.k = s.params.len81 → exec (.rspFaSetADCChannelOffsetAndSensitivity f) s = .next (delivered s f 81#8 (.raw (ws.map byteOf)))) ∧
    (f.k = s.params.len107 → exec (.rspFaReset f) s = .next (delivered s f 107#8 (.raw (ws.map byteOf)))) ∧
    (f.k = s.params.len120 → exec (.rspFaReportDCAID f) s = .next (delivered s f 120#8 (.raw (ws.map byteOf)))) ∧
    (f.k = s.params.len80 → exec (.rspHaSetADCScanRate f) s = .next (delivered s f 80#8 (.raw (ws.map byteOf)))) ∧
    (f.k = s.params.len81 → exec (.rspHaSetADCChannelOffsetAndSensitivity f) s = .next (delivered s f 81#8 (.raw (ws.map byteOf)))) ∧
    (f.k = s.params.len107 → exec (.rspHaReset f) s = .next (delivered s f 107#8 (.raw (ws.map byteOf)))) ∧
    (f.k = s.params.len107 → exec (.rspHmReset f) s = .next (delivered s f 107#8 (.raw (ws.map byteOf)))) ∧
    (f.k = s.params.len120 → exec (.rspHmReportHMMezzanineID f) s = .next (delivered s f 120#8 (.raw (ws.map byteOf)))) ∧
    (f.k = s.params.len17 → exec (.rspFaReportServerID f) s = .next (delivered s f 17#8 (.serverID (ws.map byteOf)))) ∧
    (f.k = s.params.len17 → exec (.rspHaReportServerID f) s = .next (delivered s f 17#8 (.serverID (ws.map byteOf)))) ∧
    (f.k = s.params.len17 → exec (.rspHmReportServerID f) s = .next (delivered s f 17#8 (.serverID (ws.map byteOf))))

/-- With k payload words that carry the bytes bs at the cursor, k being the parameter's length, each of these eight
handlers completes with its record and moves only the cursor besides: ReportServerStatus delivers state, status and
faults of two bytes each for k = 6, a one-byte state for k = 5, and the raw bytes for any other override (log 21,
DESIGN CHOICE); ChangeILCMode and the two status-bit responses deliver one unsigned integer of k bytes. (R255, R256,
R267, R269, R270, R278, R279, R283, R42, R81) -/
def Obligations.IntegerResponsesDeliverTheirFields : Prop :=
  ∀ (f : Routed) (ws : List Word) (s : State), AtCursor s ws → ws.length = f.k →
    let bs := ws.map byteOf
    (bs.length = 6 → f.k = s.params.len18 → exec (.rspFaReportServerStatus f) s = .next (delivered s f 18#8
      (.serverStatus (be (bs.take 2)) (be ((bs.drop 2).take 2)) (be (bs.drop 4))))) ∧
    (bs.length = 6 → f.k = s.params.len18 → exec (.rspHaReportServerStatus f) s = .next (delivered s f 18#8
      (.serverStatus (be (bs.take 2)) (be ((bs.drop 2).take 2)) (be (bs.drop 4))))) ∧
    (bs.length = 6 → f.k = s.params.len18 → exec (.rspHmReportServerStatus f) s = .next (delivered s f 18#8
      (.serverStatus (be (bs.take 2)) (be ((bs.drop 2).take 2)) (be (bs.drop 4))))) ∧
    (bs.length = 5 → f.k = s.params.len18 → exec (.rspFaReportServerStatus f) s = .next (delivered s f 18#8
      (.serverStatus (be (bs.take 1)) (be ((bs.drop 1).take 2)) (be (bs.drop 3))))) ∧
    (bs.length = 5 → f.k = s.params.len18 → exec (.rspHaReportServerStatus f) s = .next (delivered s f 18#8
      (.serverStatus (be (bs.take 1)) (be ((bs.drop 1).take 2)) (be (bs.drop 3))))) ∧
    (bs.length = 5 → f.k = s.params.len18 → exec (.rspHmReportServerStatus f) s = .next (delivered s f 18#8
      (.serverStatus (be (bs.take 1)) (be ((bs.drop 1).take 2)) (be (bs.drop 3))))) ∧
    (bs.length ≠ 5 → bs.length ≠ 6 → f.k = s.params.len18 →
      exec (.rspFaReportServerStatus f) s = .next (delivered s f 18#8 (.raw bs))) ∧
    (bs.length ≠ 5 → bs.length ≠ 6 → f.k = s.params.len18 →
      exec (.rspHaReportServerStatus f) s = .next (delivered s f 18#8 (.raw bs))) ∧
    (bs.length ≠ 5 → bs.length ≠ 6 → f.k = s.params.len18 →
      exec (.rspHmReportServerStatus f) s = .next (delivered s f 18#8 (.raw bs))) ∧
    (f.k = s.params.len65 → exec (.rspFaChangeILCMode f) s = .next (delivered s f 65#8 (.mode (be bs)))) ∧
    (f.k = s.params.len65 → exec (.rspHaChangeILCMode f) s = .next (delivered s f 65#8 (.mode (be bs)))) ∧
    (f.k = s.params.len65 → exec (.rspHmChangeILCMode f) s = .next (delivered s f 65#8 (.mode (be bs)))) ∧
    (f.k = s.params.len121 → exec (.rspFaReportDCAStatus f) s = .next (delivered s f 121#8 (.statusBits (be bs)))) ∧
    (f.k = s.params.len121 → exec (.rspHmReportHMMezzanineStatus f) s = .next (delivered s f 121#8 (.statusBits (be bs))))

/-- With the k payload words at the cursor (8, 96, 96, 16 and 8 of them), ReadBoostValveDCAGains, both
ReadCalibration, ReportDCAPressure and ReportLVDT complete: the record carries the 2, 24, 24, 4 and 2 floats in word
order, each read as readSGL reads, the cursor moves past the payload, and nothing else changes. With any other k, each
of them raises InvalidLength and reads nothing; that this check is part of the row is the model's choice (log 30,
DESIGN CHOICE). (R258, R264, R265, R276, R284, R222, R250, R43) -/
def Obligations.FloatResponsesDeliverTheirFloats : Prop :=
  ∀ (f : Routed) (ws : List Word) (s : State), AtCursor s ws → ws.length = f.k →
    let floats := floatsOf s.params.floatOrder (ws.map byteOf)
    (f.k = 8 → ∀ g0 g1, floats 2 = [g0, g1] →
      exec (.rspFaReadBoostValveDCAGains f) s = .next (delivered s f 74#8 (.gains g0 g1)) ∧
      exec (.rspHmReportLVDT f) s = .next (delivered s f 122#8 (.lvdt g0 g1))) ∧
    (f.k = 96 →
      exec (.rspFaReadCalibration f) s = .next (delivered s f 110#8 (.calibration (floats 24))) ∧
      exec (.rspHaReadCalibration f) s = .next (delivered s f 110#8 (.calibration (floats 24)))) ∧
    (f.k = 16 → exec (.rspFaReportDCAPressure f) s = .next (delivered s f 119#8 (.pressure (floats 4)))) ∧
    (f.k ≠ 8 →
      exec (.rspFaReadBoostValveDCAGains f) s = .next (warned s .invalidLength f.ch.actuatorId) ∧
      exec (.rspHmReportLVDT f) s = .next (warned s .invalidLength f.ch.actuatorId)) ∧
    (f.k ≠ 96 →
      exec (.rspFaReadCalibration f) s = .next (warned s .invalidLength f.ch.actuatorId) ∧
      exec (.rspHaReadCalibration f) s = .next (warned s .invalidLength f.ch.actuatorId)) ∧
    (f.k ≠ 16 → exec (.rspFaReportDCAPressure f) s = .next (warned s .invalidLength f.ch.actuatorId))

/-- With 16 payload words at the cursor, the handler completes: the cursor moves past them, the air-pressure report of
the pressure P_AIRP_INDEX names comes first (-1 below the family's low threshold, 1 above its high one, else 0, and 0
outside the three families), then the record with the four floats; nothing else changes. (R281, R295, R296) -/
def Obligations.HmPressureIsDeliveredAndChecked : Prop :=
  ∀ (f : Routed) (ws : List Word) (s : State), AtCursor s ws → ws.length = 16 → f.k = 16 →
    let ps := floatsOf s.params.floatOrder (ws.map byteOf) 4
    let band (lo hi : Ratio) : Int :=
      let p := ps.getD s.params.airpIndex.val 0#32
      if floatBelow p lo then -1 else if floatAbove p hi then 1 else 0
    let r : Int := match stateFamily s with
      | .raising => band s.params.airpLoRaising s.params.airpHiRaising
      | .active => band s.params.airpLoActive s.params.airpHiActive
      | .lowering => band s.params.airpLoLowering s.params.airpHiLowering
      | .other => 0
    exec (.rspHmReportHMPressure f) s = .next
      { s with idx := s.idx + 16
               out := s.out ++ [.hardpointActuatorAirPressure f.ch.dataIndex r, record f 119#8 (.pressure ps)] }

/-- With 9 payload words at the cursor, StepMotor and ElectromechanicalForceAndStatus complete: the record carries the
status byte, the negated signed encoder (exact, so -(-2^31) is 2^31), the force with its sign bit flipped, and encoder
times P_UM_PER_COUNT; before it come the load-cell report and the measured-force report, the latter false outside the
Active family and against the force-balance band where force balance is applied; the cursor moves by 9 and nothing
else changes. That the displacement is the exact product, not rounded, is the model's choice (log 18, DESIGN CHOICE).
(R271, R272, R253, R294, R296) -/
def Obligations.ElectromechanicalResponsesInvertAndCheck : Prop :=
  ∀ (f : Routed) (w0 w1 w2 w3 w4 w5 w6 w7 w8 : Word) (s : State),
    AtCursor s [w0, w1, w2, w3, w4, w5, w6, w7, w8] → f.k = 9 →
    let encoder : Int := -(byteOf w1 ++ byteOf w2 ++ byteOf w3 ++ byteOf w4).toInt
    let force := floatOf s.params.floatOrder [byteOf w5, byteOf w6, byteOf w7, byteOf w8] ^^^ 0x80000000#32
    let outside (lo hi : Ratio) : Bool := floatAbove force hi || floatBelow force lo
    let band : Bool :=
      if stateFamily s = .active then
        (if s.env.forceBalance then outside s.params.lcFbLo s.params.lcFbHi
          else outside s.params.lcActiveLo s.params.lcActiveHi)
      else false
    let after (fn : Byte) : State :=
      { s with idx := s.idx + 9
               out := s.out ++
                 [.hardpointActuatorLoadCellError f.ch.actuatorId (outside s.params.lcLo s.params.lcHi),
                  .hardpointActuatorMeasuredForce f.ch.actuatorId band,
                  record f fn (.electromechanical (byteOf w0).toNat encoder force
                    ⟨encoder * s.params.umPerCount.num, s.params.umPerCount.denPred⟩)] }
    exec (.rspHaStepMotor f) s = .next (after 66#8) ∧
    exec (.rspHaElectromechanicalForceAndStatus f) s = .next (after 67#8)

/-- With the payload at the cursor (5 words for an address up to 16, 9 for one above), ForceDemand and
PneumaticForceStatus complete: status byte, primary force and for a dual-axis address the secondary force are read,
checks (a) and (b) are made on the axes present, and the record carries the converted forces, x and y only where the
channel contributes to the axis; the cursor moves past the payload and nothing else changes but what the checks
change. The conversion is open (D31); that its results are binary32 patterns is the model's choice (log 18, DESIGN
CHOICE). (R259, R260, R252, R196, R296) -/
def Obligations.ForceResponsesConvertAndCheck : Prop :=
  ∀ (f : Routed) (w0 w1 w2 w3 w4 : Word) (s : State),
    let primary := floatOf s.params.floatOrder [byteOf w1, byteOf w2, byteOf w3, byteOf w4]
    let single (fn : Byte) : State :=
      let t := checkForces f.ch primary none { s with idx := s.idx + 5 }
      { t with out := t.out ++ [record f fn (.forces (byteOf w0).toNat primary none none none
          (Config.forceConvSingle primary))] }
    (AtCursor s [w0, w1, w2, w3, w4] → f.addr.toNat ≤ 16 → f.k = 5 →
      exec (.rspFaForceDemand f) s = .next (single 75#8) ∧
      exec (.rspFaPneumaticForceStatus f) s = .next (single 76#8)) ∧
    (∀ w5 w6 w7 w8 : Word, AtCursor s [w0, w1, w2, w3, w4, w5, w6, w7, w8] → 17 ≤ f.addr.toNat → f.k = 9 →
      let secondary := floatOf s.params.floatOrder [byteOf w5, byteOf w6, byteOf w7, byteOf w8]
      let xyz := Config.forceConv f.ch.orientation primary secondary
      let dual (fn : Byte) : State :=
        let t := checkForces f.ch primary (some secondary) { s with idx := s.idx + 9 }
        { t with out := t.out ++ [record f fn (.forces (byteOf w0).toNat primary (some secondary)
            (if f.ch.xDataIndex = -1 then none else some xyz.1)
            (if f.ch.yDataIndex = -1 then none else some xyz.2.1) xyz.2.2)] }
      exec (.rspFaForceDemand f) s = .next (dual 75#8) ∧
      exec (.rspFaPneumaticForceStatus f) s = .next (dual 76#8))

/-- The checks set a force actuator's limit flag of each axis present to (force above the high or below the low limit)
and its following-error flag to (deviation from the command beyond the limit), keep the flags of an absent axis and of
every other actuator, republish the aggregate (the OR of all flags, with the flags of every channel) once exactly if a
flag changed, then report the following errors once (false for an absent secondary axis); nothing else changes. The
republication stands before the report (log 22, DEDUCED). That a channel whose index lies outside a flag array has no
flag there, so that none changes and none is republished for it, and that its following errors are still reported, is
the model's choice (log 20, DESIGN CHOICE). (R290, R291, R292, R293) -/
def Obligations.ForceChecksRenewTheFlagsAndReport : Prop :=
  ∀ (ch : ILCMap) (p : F32) (q : Option F32) (s : State),
    let t := checkForces ch p q s
    let limit (a : Axis) (x : F32) : Bool :=
      floatAbove x (axisLimits ch.actuatorId a s).hi || floatBelow x (axisLimits ch.actuatorId a s).lo
    let fe (a : Axis) (x : F32) : Bool :=
      deviatesBeyond x (commanded ch a s) (axisLimits ch.actuatorId a s).feLimit
    let renewed (old : AxisFlags) (test : Axis → F32 → Bool) : AxisFlags :=
      ⟨test .primary p, (q.map (test .secondary)).getD old.secondary⟩
    (∀ i : Nat, ch.dataIndex = i →
      (∀ h : i < s.limitFlag.length, t.limitFlag = s.limitFlag.set i (renewed s.limitFlag[i] limit)) ∧
      (∀ h : i < s.feFlag.length, t.feFlag = s.feFlag.set i (renewed s.feFlag[i] fe))) ∧
    ((ch.dataIndex < 0 ∨ (s.limitFlag.length : Int) ≤ ch.dataIndex) → t.limitFlag = s.limitFlag) ∧
    ((ch.dataIndex < 0 ∨ (s.feFlag.length : Int) ≤ ch.dataIndex) → t.feFlag = s.feFlag) ∧
    t.out = s.out ++
      (if t.limitFlag = s.limitFlag ∧ t.feFlag = s.feFlag then []
        else [.forceActuatorWarning
          ⟨(t.limitFlag ++ t.feFlag).any fun g => g.primary || g.secondary, t.limitFlag, t.feFlag⟩]) ++
      [.forceActuatorFollowingError ch.actuatorId (fe .primary p) ((q.map (fe .secondary)).getD false)] ∧
    t = { s with limitFlag := t.limitFlag, feFlag := t.feFlag, out := t.out }

/-- For a NaN pattern, no comparison of the checks holds. For every finite pattern, normal or subnormal, positive,
negative or zero, with value v = (-1)^sign * (2^23 + m) * 2^(e - 150), or (-1)^sign * m * 2^(-149) for e = 0: it is
above a threshold exactly if v > num / den, below it exactly if v < num / den, and its deviation from a command of k
thousandths is beyond a limit exactly if |v - k / 1000| > num / den. Plus infinity is above and minus infinity below
every threshold, and either deviates beyond every limit (log 39, DEDUCED). That thresholds and commands are exact
numbers and the comparisons exact is the model's choice (log 18, DESIGN CHOICE). (R290, R292, R294, R295, D40, R43) -/
def Obligations.ComparisonsFollowTheRealValues : Prop :=
  ∀ (p : F32) (q : Ratio) (k : Int),
    let e := (p.extractLsb' 23 8).toNat
    let m := (p.extractLsb' 0 23).toNat
    let magnitude : ℚ := if e = 0 then (m : ℚ) / 2 ^ 149 else ((2 ^ 23 + m : Nat) : ℚ) * 2 ^ e / 2 ^ 150
    let v : ℚ := if p.getLsbD 31 then -magnitude else magnitude
    let limit : ℚ := (q.num : ℚ) / (q.denPred + 1)
    (e = 255 → m ≠ 0 → floatAbove p q = false ∧ floatBelow p q = false ∧ deviatesBeyond p k q = false) ∧
    (e < 255 →
      (floatAbove p q = true ↔ v > limit) ∧ (floatBelow p q = true ↔ v < limit) ∧
      (deviatesBeyond p k q = true ↔ |v - (k : ℚ) / 1000| > limit)) ∧
    (e = 255 → m = 0 →
      floatAbove p q = !p.getLsbD 31 ∧ floatBelow p q = p.getLsbD 31 ∧ deviatesBeyond p k q = true)

/-- With k = 1 and a word w at the cursor, each of the 31 exception rows completes: the cursor moves by one and one
warning with the channel's actuatorId is raised, IllegalFunction for byte 1, IllegalDataValue for byte 3 and
UnknownProblem for any other; nothing else changes. With any other k it raises InvalidLength with that id, and nothing
else changes, the cursor neither. The byte values are the spec's decision D13. (R223, R72, R75, R77, R79, R334, R335,
R336, R340) -/
def Obligations.ExceptionResponsesRaiseOneWarning : Prop :=
  ∀ (f : Routed) (s : State),
    (∀ w : Word, f.k = 1 → AtCursor s [w] →
      let kind : WarnKind :=
        if byteOf w = 1#8 then .illegalFunction else if byteOf w = 3#8 then .illegalDataValue else .unknownProblem
      let t : State := { warned s kind f.ch.actuatorId with idx := s.idx + 1 }
      exec (.excFa145 f) s = .next t ∧
      exec (.excFa146 f) s = .next t ∧
      exec (.excFa193 f) s = .next t ∧
      exec (.excFa201 f) s = .next t ∧
      exec (.excFa202 f) s = .next t ∧
      exec (.excFa203 f) s = .next t ∧
      exec (.excFa204 f) s = .next t ∧
      exec (.excFa208 f) s = .next t ∧
      exec (.excFa209 f) s = .next t ∧
      exec (.excFa235 f) s = .next t ∧
      exec (.excFa238 f) s = .next t ∧
      exec (.excFa247 f) s = .next t ∧
      exec (.excFa248 f) s = .next t ∧
      exec (.excFa249 f) s = .next t ∧
      exec (.excHa145 f) s = .next t ∧
      exec (.excHa146 f) s = .next t ∧
      exec (.excHa193 f) s = .next t ∧
      exec (.excHa194 f) s = .next t ∧
      exec (.excHa195 f) s = .next t ∧
      exec (.excHa208 f) s = .next t ∧
      exec (.excHa209 f) s = .next t ∧
      exec (.excHa235 f) s = .next t ∧
      exec (.excHa238 f) s = .next t ∧
      exec (.excHm145 f) s = .next t ∧
      exec (.excHm146 f) s = .next t ∧
      exec (.excHm193 f) s = .next t ∧
      exec (.excHm235 f) s = .next t ∧
      exec (.excHm247 f) s = .next t ∧
      exec (.excHm248 f) s = .next t ∧
      exec (.excHm249 f) s = .next t ∧
      exec (.excHm250 f) s = .next t) ∧
    (f.k ≠ 1 →
      let t : State := warned s .invalidLength f.ch.actuatorId
      exec (.excFa145 f) s = .next t ∧
      exec (.excFa146 f) s = .next t ∧
      exec (.excFa193 f) s = .next t ∧
      exec (.excFa201 f) s = .next t ∧
      exec (.excFa202 f) s = .next t ∧
      exec (.excFa203 f) s = .next t ∧
      exec (.excFa204 f) s = .next t ∧
      exec (.excFa208 f) s = .next t ∧
      exec (.excFa209 f) s = .next t ∧
      exec (.excFa235 f) s = .next t ∧
      exec (.excFa238 f) s = .next t ∧
      exec (.excFa247 f) s = .next t ∧
      exec (.excFa248 f) s = .next t ∧
      exec (.excFa249 f) s = .next t ∧
      exec (.excHa145 f) s = .next t ∧
      exec (.excHa146 f) s = .next t ∧
      exec (.excHa193 f) s = .next t ∧
      exec (.excHa194 f) s = .next t ∧
      exec (.excHa195 f) s = .next t ∧
      exec (.excHa208 f) s = .next t ∧
      exec (.excHa209 f) s = .next t ∧
      exec (.excHa235 f) s = .next t ∧
      exec (.excHa238 f) s = .next t ∧
      exec (.excHm145 f) s = .next t ∧
      exec (.excHm146 f) s = .next t ∧
      exec (.excHm193 f) s = .next t ∧
      exec (.excHm235 f) s = .next t ∧
      exec (.excHm247 f) s = .next t ∧
      exec (.excHm248 f) s = .next t ∧
      exec (.excHm249 f) s = .next t ∧
      exec (.excHm250 f) s = .next t)

/-- For every frame of a channel of each device type, dispatch of each listed success code is that code's response row
and dispatch of each listed exception code is that code's exception row. (R74, R75, R76, R77, R78, R79, R80, R221) -/
def Obligations.DispatchSelectsTheTableRow : Prop :=
  ∀ (f : Routed) (s : State),
    (f.ch.deviceType = .fa →
      exec (.dispatch f 17#8) s = exec (.rspFaReportServerID f) s ∧
      exec (.dispatch f 18#8) s = exec (.rspFaReportServerStatus f) s ∧
      exec (.dispatch f 65#8) s = exec (.rspFaChangeILCMode f) s ∧
      exec (.dispatch f 73#8) s = exec (.rspFaSetBoostValveDCAGains f) s ∧
      exec (.dispatch f 74#8) s = exec (.rspFaReadBoostValveDCAGains f) s ∧
      exec (.dispatch f 75#8) s = exec (.rspFaForceDemand f) s ∧
      exec (.dispatch f 76#8) s = exec (.rspFaPneumaticForceStatus f) s ∧
      exec (.dispatch f 80#8) s = exec (.rspFaSetADCScanRate f) s ∧
      exec (.dispatch f 81#8) s = exec (.rspFaSetADCChannelOffsetAndSensitivity f) s ∧
      exec (.dispatch f 107#8) s = exec (.rspFaReset f) s ∧
      exec (.dispatch f 110#8) s = exec (.rspFaReadCalibration f) s ∧
      exec (.dispatch f 119#8) s = exec (.rspFaReportDCAPressure f) s ∧
      exec (.dispatch f 120#8) s = exec (.rspFaReportDCAID f) s ∧
      exec (.dispatch f 121#8) s = exec (.rspFaReportDCAStatus f) s ∧
      exec (.dispatch f 145#8) s = exec (.excFa145 f) s ∧
      exec (.dispatch f 146#8) s = exec (.excFa146 f) s ∧
      exec (.dispatch f 193#8) s = exec (.excFa193 f) s ∧
      exec (.dispatch f 201#8) s = exec (.excFa201 f) s ∧
      exec (.dispatch f 202#8) s = exec (.excFa202 f) s ∧
      exec (.dispatch f 203#8) s = exec (.excFa203 f) s ∧
      exec (.dispatch f 204#8) s = exec (.excFa204 f) s ∧
      exec (.dispatch f 208#8) s = exec (.excFa208 f) s ∧
      exec (.dispatch f 209#8) s = exec (.excFa209 f) s ∧
      exec (.dispatch f 235#8) s = exec (.excFa235 f) s ∧
      exec (.dispatch f 238#8) s = exec (.excFa238 f) s ∧
      exec (.dispatch f 247#8) s = exec (.excFa247 f) s ∧
      exec (.dispatch f 248#8) s = exec (.excFa248 f) s ∧
      exec (.dispatch f 249#8) s = exec (.excFa249 f) s) ∧
    (f.ch.deviceType = .ha →
      exec (.dispatch f 17#8) s = exec (.rspHaReportServerID f) s ∧
      exec (.dispatch f 18#8) s = exec (.rspHaReportServerStatus f) s ∧
      exec (.dispatch f 65#8) s = exec (.rspHaChangeILCMode f) s ∧
      exec (.dispatch f 66#8) s = exec (.rspHaStepMotor f) s ∧
      exec (.dispatch f 67#8) s = exec (.rspHaElectromechanicalForceAndStatus f) s ∧
      exec (.dispatch f 80#8) s = exec (.rspHaSetADCScanRate f) s ∧
      exec (.dispatch f 81#8) s = exec (.rspHaSetADCChannelOffsetAndSensitivity f) s ∧
      exec (.dispatch f 107#8) s = exec (.rspHaReset f) s ∧
      exec (.dispatch f 110#8) s = exec (.rspHaReadCalibration f) s ∧
      exec (.dispatch f 145#8) s = exec (.excHa145 f) s ∧
      exec (.dispatch f 146#8) s = exec (.excHa146 f) s ∧
      exec (.dispatch f 193#8) s = exec (.excHa193 f) s ∧
      exec (.dispatch f 194#8) s = exec (.excHa194 f) s ∧
      exec (.dispatch f 195#8) s = exec (.excHa195 f) s ∧
      exec (.dispatch f 208#8) s = exec (.excHa208 f) s ∧
      exec (.dispatch f 209#8) s = exec (.excHa209 f) s ∧
      exec (.dispatch f 235#8) s = exec (.excHa235 f) s ∧
      exec (.dispatch f 238#8) s = exec (.excHa238 f) s) ∧
    (f.ch.deviceType = .hm →
      exec (.dispatch f 17#8) s = exec (.rspHmReportServerID f) s ∧
      exec (.dispatch f 18#8) s = exec (.rspHmReportServerStatus f) s ∧
      exec (.dispatch f 65#8) s = exec (.rspHmChangeILCMode f) s ∧
      exec (.dispatch f 107#8) s = exec (.rspHmReset f) s ∧
      exec (.dispatch f 119#8) s = exec (.rspHmReportHMPressure f) s ∧
      exec (.dispatch f 120#8) s = exec (.rspHmReportHMMezzanineID f) s ∧
      exec (.dispatch f 121#8) s = exec (.rspHmReportHMMezzanineStatus f) s ∧
      exec (.dispatch f 122#8) s = exec (.rspHmReportLVDT f) s ∧
      exec (.dispatch f 145#8) s = exec (.excHm145 f) s ∧
      exec (.dispatch f 146#8) s = exec (.excHm146 f) s ∧
      exec (.dispatch f 193#8) s = exec (.excHm193 f) s ∧
      exec (.dispatch f 235#8) s = exec (.excHm235 f) s ∧
      exec (.dispatch f 247#8) s = exec (.excHm247 f) s ∧
      exec (.dispatch f 248#8) s = exec (.excHm248 f) s ∧
      exec (.dispatch f 249#8) s = exec (.excHm249 f) s ∧
      exec (.dispatch f 250#8) s = exec (.excHm250 f) s)

/-- For every state with a well-formed buffer whose k payload words from the cursor stand below len, and every
function byte, dispatch completes with the cursor moved by at most k; the buffer, the counters, the bus lists and the
map are unchanged. A code in neither set of the device type raises UnknownFunction with the channel's actuatorId and
does nothing else; a listed success code whose length is wrong raises InvalidLength and does nothing else. (R221,
R222, R224, R230) -/
def Obligations.DispatchCompletes : Prop :=
  ∀ (f : Routed) (fn : Byte) (s : State),
    (BufferOk s → s.idx + f.k ≤ s.len → ∃ t, exec (.dispatch f fn) s = .next t ∧
      s.idx ≤ t.idx ∧ t.idx ≤ s.idx + f.k ∧ t.buf = s.buf ∧ t.len = s.len ∧
      t.faExp = s.faExp ∧ t.haExp = s.haExp ∧ t.hmExp = s.hmExp ∧ t.busLists = s.busLists ∧ t.ilcMap = s.ilcMap) ∧
    (fn.toNat ∉ successSet f.ch.deviceType → fn.toNat ∉ exceptionSet f.ch.deviceType →
      exec (.dispatch f fn) s = .next (warned s .unknownFunction f.ch.actuatorId)) ∧
    (fn.toNat ∈ successSet f.ch.deviceType → f.k ≠ respLen s.params fn.toNat f.addr →
      exec (.dispatch f fn) s = .next (warned s .invalidLength f.ch.actuatorId))

/-- For every state with a well-formed buffer and every subnet number, decodeFrame completes, whatever words stand
there; the cursor ends where skipToNextFrame from the frame's start ends, which is past it while words remain, the
buffer is unchanged, at most one warning is raised, and the bus lists, the map, the broadcast counter and the
sequencer's registers are unchanged. That the skip from the frame's start and the skip from where the handler stopped
end at the same word is inferred: a frame's words before its tail are of class DATA (R211, R225). (R225, R226, R227,
R230) -/
def Obligations.DecodeFrameEndsAtTheNextFrame : Prop :=
  ∀ (sub : Int) (s : State), BufferOk s →
    ∃ t new, exec (.decodeFrame sub) s = .next t ∧ t.idx = (skipToNextFrame s).idx ∧
      (s.idx < s.len → s.idx < t.idx) ∧ t.buf = s.buf ∧ t.len = s.len ∧
      t.out = s.out ++ new ∧ (new.filter isWarning).length ≤ 1 ∧
      t.busLists = s.busLists ∧ t.ilcMap = s.ilcMap ∧ t.bcastCtr = s.bcastCtr ∧ t.phase = s.phase ∧
      t.signaled = s.signaled ∧ t.anyTimeout = s.anyTimeout ∧ t.tCycle = s.tCycle ∧ t.curOp = s.curOp ∧
      t.cycleBusy = s.cycleBusy

/-- From n data words at the cursor that are followed by the end of the buffer, by an end-of-frame word, or, for n
below 4, by a timestamp word, decodeFrame completes: fs, tail and n are written, InvalidLength is raised with
actuatorId -1, the cursor skips to the next frame, and nothing else changes, no counter among it. (R211, R212, R213,
R336) -/
def Obligations.FramesWithoutATailRaiseInvalidLength : Prop :=
  ∀ (sub : Int) (n : Nat) (s : State),
    (∀ j, j < n → classAt s (s.idx + j) .data = true) →
    (s.idx + n = s.len ∨ classAt s (s.idx + n) .eofw = true ∨ (n < 4 ∧ classAt s (s.idx + n) .ts = true)) →
    exec (.decodeFrame sub) s =
      .next (skipToNextFrame { warned s .invalidLength (-1) with fs := s.idx, tail := s.idx + n, n := n })

/-- For a frame at the cursor whose CRC bytes differ from the CRC of its other bytes, decodeFrame completes: the
working registers up to the timestamp are written, InvalidCRC is raised with actuatorId -1, the cursor skips to the
next frame, and nothing else changes: no payload is decoded and, under the default of P_DECR_ON_BAD_CRC, no counter
changes. (R216) -/
def Obligations.BadCrcDiscardsTheFrame : Prop :=
  ∀ (sub : Int) (a f : Byte) (p : List Byte) (lo hi : Byte) (s : State),
    FrameHere s a f p lo hi → crc16 (a :: f :: p) ≠ hi ++ lo → s.params.decrOnBadCrc = false →
    exec (.decodeFrame sub) s = .next (skipToNextFrame (warned (validated s a f p lo hi) .invalidCRC (-1)))

/-- As for the default, but the counter of the channel that the frame's unverified address byte resolves to on the
subnet, if it resolves to one, goes down by one. How the alternative treats an unmapped address is the model's choice
(log 29). (R229, 93_implementation_defined.md I2) -/
def Obligations.BadCrcMayDecrementItsAddress : Prop :=
  ∀ (sub : Int) (a f : Byte) (p : List Byte) (lo hi : Byte) (s : State),
    FrameHere s a f p lo hi → crc16 (a :: f :: p) ≠ hi ++ lo → s.params.decrOnBadCrc = true →
    let t := warned (validated s a f p lo hi) .invalidCRC (-1)
    (∀ c, lookup sub a s = .channel c →
      exec (.decodeFrame sub) s = .next (skipToNextFrame (countedDown c t))) ∧
    ((∀ c, lookup sub a s ≠ .channel c) → exec (.decodeFrame sub) s = .next (skipToNextFrame t))

/-- For a CRC-valid frame at the cursor whose address has no entry on a subnet 1 to 5, decodeFrame completes: the
working registers are written, ch is INVALID, UnknownAddress is raised with actuatorId -1, the cursor skips to the
next frame, and nothing else changes. (R219) -/
def Obligations.UnknownAddressIsReported : Prop :=
  ∀ (sub : Int) (a f : Byte) (p : List Byte) (lo hi : Byte) (s : State),
    FrameHere s a f p lo hi → crc16 (a :: f :: p) = hi ++ lo → lookup sub a s = .invalid →
    exec (.decodeFrame sub) s =
      .next (skipToNextFrame (warned { addressed s a f p lo hi with ch := none } .unknownAddress (-1)))

/-- For a CRC-valid frame at the cursor and a subnet number outside 1 to 5, decodeFrame completes: the working
registers but ch are written, UnknownSubnet is raised with actuatorId -1, the cursor skips to the next frame, and
nothing else changes. (R218, R337) -/
def Obligations.UnknownSubnetIsReported : Prop :=
  ∀ (sub : Int) (a f : Byte) (p : List Byte) (lo hi : Byte) (s : State),
    FrameHere s a f p lo hi → crc16 (a :: f :: p) = hi ++ lo → sub < 1 ∨ 5 < sub →
    exec (.decodeFrame sub) s = .next (skipToNextFrame (warned (addressed s a f p lo hi) .unknownSubnet (-1)))

/-- For a CRC-valid frame at the cursor whose address is mapped, decodeFrame reads address and function, leaves the
cursor two past the frame start, takes one from the channel's counter whatever the function is, then is the dispatch
of the frame with k payload bytes and its timestamp, and then the skip to the next frame. (R217, R220) -/
def Obligations.RoutedFrameDecrementsThenDispatches : Prop :=
  ∀ (sub : Int) (a f : Byte) (p : List Byte) (lo hi : Byte) (c : ILCMap) (s : State),
    FrameHere s a f p lo hi → crc16 (a :: f :: p) = hi ++ lo → lookup sub a s = .channel c →
    let s1 : State := { addressed s a f p lo hi with ch := some c }
    let s2 : State := countedDown c s1
    ∀ t, exec (.dispatch ⟨c, sub, a, p.length, tsAt s (s.idx + (p.length + 4))⟩ f) s2 = .next t →
      exec (.decodeFrame sub) s = .next (skipToNextFrame t)

/-- For every subnet number and any words that fit the buffer, decodeBuffer completes. It is the load of the words and
then a number of decodeFrame, each from the cursor the one before left, as long as the cursor is below len, each
moving the cursor on; at the end the buffer holds these words and the cursor is at their end. The bus lists, the map,
the broadcast counter and the sequencer's registers are unchanged, and an empty buffer changes no counter and raises
nothing. Longer words fault with BufferOverflow. (R210, R227, R228, R230, R52, R375) -/
def Obligations.DecodeBufferUsesTheWholeBuffer : Prop :=
  ∀ (sub : Int) (ws : List Word) (s : State),
    (ws.length ≤ s.capacity → ∃ (loaded t : State) (k : Nat),
      exec (.load ws) s = .next loaded ∧ FramesDecoded sub k loaded t ∧
      exec (.decodeBuffer sub ws) s = .next t ∧ HoldsExactly t ws ∧
      t.busLists = s.busLists ∧ t.ilcMap = s.ilcMap ∧ t.bcastCtr = s.bcastCtr ∧ t.phase = s.phase ∧
      t.signaled = s.signaled ∧ t.anyTimeout = s.anyTimeout ∧ t.tCycle = s.tCycle ∧ t.curOp = s.curOp ∧
      t.cycleBusy = s.cycleBusy ∧
      (ws = [] → t = { s with buf := t.buf, idx := t.idx, len := t.len })) ∧
    (s.capacity < ws.length → exec (.decodeBuffer sub ws) s = .fault .bufferOverflow)

/-- raise K(aid) completes in every state for each kind and id: warn_rec is {t_cycle, aid, K}, exactly that record is
published after the events before it, and nothing else changes. The kinds have the codes 0 to 8. (R330, R313, R331) -/
def Obligations.RaiseOverwritesAndPublishes : Prop :=
  (∀ (k : WarnKind) (aid : Int) (s : State),
    exec (.raise k aid) s =
      .next { s with warnRec := ⟨s.tCycle, aid, some k⟩, out := s.out ++ [.warning ⟨s.tCycle, aid, some k⟩] }) ∧
    [WarnKind.responseTimeout, .invalidCRC, .illegalFunction, .illegalDataValue, .invalidLength, .unknownSubnet,
      .unknownAddress, .unknownFunction, .unknownProblem].map WarnKind.code = [0, 1, 2, 3, 4, 5, 6, 7, 8]

/-- verifyResponses completes in every state: for FA, HA, HM in this order and by ascending index, exactly the
channels with a nonzero counter, negative ones too, get one ResponseTimeout with their actuatorId; every counter is 0
afterwards in arrays of the same length; any_timeout is set if there was one and else as before; warn_rec is the
record of the last of these warnings, and nothing else changes, nothing at all if every counter is 0. (R308, R332,
R195) -/
def Obligations.VerificationReportsAndClears : Prop :=
  ∀ s : State, ∃ t, exec .verifyResponses s = .next t ∧
    t.out = s.out ++ timeouts .fa s ++ timeouts .ha s ++ timeouts .hm s ∧
    (∀ dt, t.exp dt = List.replicate (s.exp dt).length 0) ∧
    (t.anyTimeout = true ↔ s.anyTimeout = true ∨ ∃ dt, ∃ c ∈ s.exp dt, c ≠ 0) ∧
    ((∀ dt, ∀ c ∈ s.exp dt, c = 0) → t = s) ∧
    (∀ w, (timeouts .fa s ++ timeouts .ha s ++ timeouts .hm s).getLast? = some (.warning w) → t.warnRec = w) ∧
    t = { s with
      faExp := t.faExp, haExp := t.haExp, hmExp := t.hmExp, out := t.out, warnRec := t.warnRec
      anyTimeout := t.anyTimeout }

/-- For every list of items, the assembled words are control words and whole item frames one after the other; the
items so laid out are the given ones, each exactly once, and the items of each subnet stand in their order. Which
subnet comes next and which control words stand where is open (log 15, DESIGN CHOICE). That the words of an empty
list, whose cycle issues nothing (R374), are none is read from the spec by inference (log 40, DEDUCED). (R300, D33,
R374) -/
def Obligations.AssemblyKeepsEveryFrameWhole : Prop :=
  assemble [] = [] ∧
  ∀ items : List Item, ∃ (parts : List (List Control × Item)) (last : List Control),
    assemble items = parts.flatMap (fun x => x.1.map controlWord ++ x.2.words) ++ last.map controlWord ∧
    (parts.map (fun x => x.2)).Perm items ∧
    ∀ sub : Int, (parts.map (fun x => x.2)).filter (fun it => decide (it.subnet = sub)) =
      items.filter (fun it => decide (it.subnet = sub))

/-- With a configuration loaded and the lock free, runCycle completes for every operation, timestamp, bus list and
transport behaviour, as one step (log 24, DESIGN CHOICE). It is 7 phases and one more for each subnet that signals:
the issue, which raises the counter of each item's channel by one for each item that expects a response and writes the
assembled list to the transport by one Transport.write; for the subnets 1 to 5 in order the wait, whose outcome is the
signaled flag, and on a signal one Transport.read and decodeBuffer of that subnet; the verification and the report. At
the end phase is Idle, cycle_busy false, every counter 0, signaled the five wait outcomes, cur_op and t_cycle the
request's; the events added start with the transport write and end with the one report of any_timeout; the bus lists,
the map, the parameters, the broadcast counter and the pending calls are unchanged. That one value of every input
serves the whole cycle is the model's choice (log 7, DESIGN CHOICE); that the issue leaves the buffer empty (log 13),
that the count of a Transport.read is the number of returned words, which R306 does not say (log 32), and that an
empty bus list is assembled to no words (log 40) are read from the spec by inference (DEDUCED). (R301, R303, R304,
R305, R306, R308, R309, R310, R374) -/
def Obligations.RunCycleCompletes : Prop :=
  ∀ (op : Op) (tm : BitVec 64) (s : State), s.configured = true → s.cycleBusy = false →
    ∃ t mid, exec (.runCycle op tm) s = .next t ∧
      PhaseSteps (7 + signalCount s.env.signal) (started op tm s) t ∧ t.phase = .idle ∧ t.cycleBusy = false ∧
      (∀ dt, t.exp dt = List.replicate (s.exp dt).length 0) ∧ t.signaled = s.env.signal ∧
      t.curOp = op ∧ t.tCycle = tm ∧
      t.out = s.out ++ [issueWrite (busList op s) s.params.writeTimeoutMs] ++ mid ++
        [.ilcCommunicationTimeout t.anyTimeout] ∧
      (∀ b, .ilcCommunicationTimeout b ∉ mid) ∧
      t.busLists = s.busLists ∧ t.ilcMap = s.ilcMap ∧ t.params = s.params ∧ t.bcastCtr = s.bcastCtr ∧
      t.port = s.port ∧ t.configured = true

/-- With a configuration loaded, the lock free and every counter 0, a cycle whose five waits all end in a timeout
completes, as one step (log 24, DESIGN CHOICE), and reads no subnet: its events are the one transport write (of no
words for an empty list, log 40, DEDUCED), one ResponseTimeout for each channel of the counter arrays to which the bus
list has an item that expects a response, in the order of verification, and the report of whether there was one; every
counter is 0 again and no signaled flag is set. That one value of every input serves the whole cycle is the model's
choice (log 7, DESIGN CHOICE). (R307, R303, R304, R308, R309, R374) -/
def Obligations.SilentCycleTimesOutEveryRequest : Prop :=
  ∀ (op : Op) (tm : BitVec 64) (s : State), s.configured = true → s.cycleBusy = false →
    (∀ dt, ∀ c ∈ s.exp dt, c = 0) → (∀ n, s.env.signal.get n = false) →
    let asked (dt : DeviceType) : List Nat :=
      (List.range (s.exp dt).length).filter fun i => requestsTo (busList op s) dt i != 0
    let reports (dt : DeviceType) : List Event :=
      (asked dt).map fun (i : Nat) => .warning ⟨tm, actuatorIdOf dt i s, some .responseTimeout⟩
    ∃ t, exec (.runCycle op tm) s = .next t ∧
      t.out = s.out ++ [issueWrite (busList op s) s.params.writeTimeoutMs] ++
        reports .fa ++ reports .ha ++ reports .hm ++ [.ilcCommunicationTimeout t.anyTimeout] ∧
      (t.anyTimeout = true ↔ ∃ dt, asked dt ≠ []) ∧
      (∀ dt, t.exp dt = List.replicate (s.exp dt).length 0) ∧ (∀ n, t.signaled.get n = false)

/-- Without a configuration, runCycle is refused. While the lock is held, a configured runCycle and a
loadConfiguration stay at the head of the pending calls and the running cycle goes on by exactly one phase: nothing
else changes. In an idle phase a load with the lock held only stays. How a held call goes on is the model's choice
(log 24, DESIGN CHOICE). Of that phase, that the issue leaves the buffer empty (log 13), that a Transport.read carries
the number of returned words as its count (log 32) and that an empty bus list is assembled to no words (log 40) are
read from the spec by inference and said by none of the rules cited (DEDUCED). (R302, R374, R372, R376, R301) -/
def Obligations.CycleRequestsAreRefusedOrHeld : Prop :=
  ∀ (op : Op) (tm : BitVec 64) (es : List MapEntry) (s : State),
    (s.configured = false → exec (.runCycle op tm) s = .refused .notConfigured) ∧
    (s.cycleBusy = true → ∃ u, PhaseStep s u ∧ u.curOp = s.curOp ∧ u.tCycle = s.tCycle ∧
      u.busLists = s.busLists ∧ u.ilcMap = s.ilcMap ∧ u.params = s.params ∧ u.port = s.port ∧
      (s.phase ≠ .idle → u.phase ≠ s.phase) ∧
      (s.configured = true →
        exec (.runCycle op tm) s = .next { u with port := encode (.runCycle op tm) ++ s.port }) ∧
      exec (.loadConfiguration es) s = .next { u with port := encode (.loadConfiguration es) ++ s.port })

/-- Every step of a configured, idle block with no mark set whose pending calls are cycle requests answers a next
state, which is again such a block, whatever the bus lists hold and whatever the transport, the subnets and the other
inputs do; so a run of any number of steps from it is safe. The queue of calls, the inputs renewed before each step
and the whole cycle in one step are the model's (log 1, log 7, log 24, DESIGN CHOICE). (R311, R310, R302) -/
def Obligations.CyclesNeverStopTheBlock : Prop :=
  ∀ s : State, ServesCycles s →
    (∃ t, step s = .next t ∧ ServesCycles t) ∧ ∀ k, RunsSafely k s

/-- For every state, reached or not, if step answers a next state then its parameters and its capacity P_BUF_WORDS are
those of the state before: no rule writes a parameter (R19) and no rule switches a byte order (R46). That the
parameters are carried in the state, as an argument of the model, is the model's choice (log 8, log 9). (R19, R46, R4,
R10) -/
def Obligations.NoStepChangesAParameter : Prop :=
  ∀ s t : State, step s = .next t → t.params = s.params ∧ t.capacity = s.capacity
end

