-- ==== Sys2Proof/Laws/Codec.lean ====
section
/-! SUPPORT. The laws of the word forms and of the value codecs. -/
namespace Sys2Proof.Machine

@[simp] theorem byteOf_txdWord (b : Byte) : byteOf (txdWord b) = b := by
  revert b; decide +kernel

@[simp] theorem byteOf_rxdWord (b : Byte) : byteOf (rxdWord b) = b := by
  revert b; decide +kernel

@[simp] theorem tsByteOf_tswWord (b : Byte) : tsByteOf (tswWord b) = b := by
  revert b; decide +kernel

@[simp] theorem isTxd_txdWord (b : Byte) : isTxd (txdWord b) = true := by
  revert b; decide +kernel

@[simp] theorem classify_rxdWord (b : Byte) : classify (rxdWord b) = .data := by
  revert b; decide +kernel

@[simp] theorem classify_tswWord (b : Byte) : classify (tswWord b) = .ts := by
  revert b; decide +kernel

@[simp] theorem classify_eofWord : classify eofWord = .eofw := by decide

/-- R65: no control word is a TX data word. -/
theorem isTxd_nonTxd (w : Word) : isTxd (nonTxd w) = false := by
  unfold nonTxd
  split
  · have h : (w ||| 1#16) &&& 0xFE01#16 ≠ 0x1200#16 := fun h => by
      have := congrArg (fun x : Word => x.getLsbD 0) h
      simp at this
    simpa [isTxd] using h
  · exact Bool.eq_false_iff.2 ‹_›

theorem isTxd_controlWord (c : Control) : isTxd (controlWord c) = false := by
  cases c <;> first | exact isTxd_nonTxd _ | decide

theorem map_byteOf_txdWord (bs : List Byte) : (bs.map txdWord).map byteOf = bs := by
  simp [Function.comp_def]

theorem beBytes_length (k : Nat) (v : Int) : (beBytes k v).length = k := by
  induction k with
  | zero => rfl
  | succ k ih => simp [beBytes, ih]

theorem getLsbD_ofInt_width (m n i : Nat) (v : Int) (hm : i < m) (hn : i < n) :
    (BitVec.ofInt m v).getLsbD i = (BitVec.ofInt n v).getLsbD i := by
  cases v with
  | ofNat k => simp only [Int.ofNat_eq_natCast, BitVec.ofInt_natCast, BitVec.getLsbD_ofNat, hm, hn]
  | negSucc k =>
    simp only [BitVec.ofInt_negSucc_eq_not_ofNat, BitVec.getLsbD_not, BitVec.getLsbD_ofNat, hm, hn]

/-- A byte of a two's-complement pattern does not depend on the pattern's width. -/
theorem extractLsb'_ofInt (m n i : Nat) (v : Int) (hm : i + 8 ≤ m) (hn : i + 8 ≤ n) :
    (BitVec.ofInt m v).extractLsb' i 8 = (BitVec.ofInt n v).extractLsb' i 8 := by
  apply BitVec.eq_of_getLsbD_eq
  intro j hj
  rw [BitVec.getLsbD_extractLsb', BitVec.getLsbD_extractLsb',
    getLsbD_ofInt_width m n (i + j) v (by omega) (by omega)]

theorem beBytes_one (v : Int) : beBytes 1 v = [BitVec.ofInt 8 v] := by
  simp [beBytes, BitVec.extractLsb'_eq_self]

theorem beBytes_two (v : Int) :
    beBytes 2 v = [(BitVec.ofInt 16 v).extractLsb' 8 8, (BitVec.ofInt 16 v).extractLsb' 0 8] := by
  simp only [beBytes, Nat.mul_one, Nat.mul_zero]
  rw [extractLsb'_ofInt 8 16 0 v (by omega) (by omega)]

theorem beBytes_three (v : Int) :
    beBytes 3 v = [(BitVec.ofInt 24 v).extractLsb' 16 8, (BitVec.ofInt 24 v).extractLsb' 8 8,
      (BitVec.ofInt 24 v).extractLsb' 0 8] := by
  rw [beBytes, beBytes_two, extractLsb'_ofInt 16 24 8 v (by omega) (by omega),
    extractLsb'_ofInt 16 24 0 v (by omega) (by omega)]

theorem beBytes_four (v : Int) :
    beBytes 4 v = [(BitVec.ofInt 32 v).extractLsb' 24 8, (BitVec.ofInt 32 v).extractLsb' 16 8,
      (BitVec.ofInt 32 v).extractLsb' 8 8, (BitVec.ofInt 32 v).extractLsb' 0 8] := by
  rw [beBytes, beBytes_three, extractLsb'_ofInt 24 32 16 v (by omega) (by omega),
    extractLsb'_ofInt 24 32 8 v (by omega) (by omega), extractLsb'_ofInt 24 32 0 v (by omega) (by omega)]

/-- Most-significant-first bytes are the concatenation. -/
theorem be_append_one {k : Nat} (x : BitVec k) (b : Byte) : x.toNat * 256 + b.toNat = (x ++ b).toNat := by
  rw [BitVec.toNat_append, ← Nat.shiftLeft_add_eq_or_of_lt b.isLt, Nat.shiftLeft_eq]

theorem be_two (a b : Byte) : be [a, b] = (a ++ b).toNat := by
  rw [← be_append_one]; simp [be]

theorem be_three (a b c : Byte) : be [a, b, c] = (a ++ b ++ c).toNat := by
  rw [← be_append_one, ← be_append_one]; simp [be]

theorem be_four (a b c d : Byte) : be [a, b, c, d] = (a ++ b ++ c ++ d).toNat := by
  rw [← be_append_one, ← be_append_one, ← be_append_one]; simp [be]

theorem sext_toNat (k : Nat) (x : BitVec k) : sext k x.toNat = x.toInt := by
  simp [sext]

theorem floatOf_lsb (a b c d : Byte) : floatOf .lsbFirst [a, b, c, d] = d ++ c ++ b ++ a := by
  show BitVec.ofNat 32 (be [d, c, b, a]) = _
  rw [be_four]; simp

theorem floatOf_msb (a b c d : Byte) : floatOf .msbFirst [a, b, c, d] = a ++ b ++ c ++ d := by
  show BitVec.ofNat 32 (be [a, b, c, d]) = _
  rw [be_four]; simp

/-- The bytes of an integer write carry its two's-complement pattern. -/
theorem be_beBytes (k : Nat) (v : Int) : be (beBytes k v) = (BitVec.ofInt (8 * k) v).toNat := by
  have low : ∀ k, (BitVec.ofInt (8 * k) v).toNat = (BitVec.ofInt (8 * (k + 1)) v).toNat % 256 ^ k := by
    intro k
    simp only [BitVec.toNat_ofInt]
    rw [show (256 : ℕ) ^ k = 2 ^ (8 * k) by rw [Nat.pow_mul]]
    zify
    rw [Int.toNat_of_nonneg (Int.emod_nonneg _ (by positivity)),
      Int.toNat_of_nonneg (Int.emod_nonneg _ (by positivity))]
    rw [Int.emod_emod_of_dvd]
    exact ⟨2 ^ 8, by rw [← pow_add]; rfl⟩
  have high : ∀ k, ((BitVec.ofInt (8 * (k + 1)) v).extractLsb' (8 * k) 8).toNat =
      (BitVec.ofInt (8 * (k + 1)) v).toNat / 256 ^ k := by
    intro k
    have h := (BitVec.ofInt (8 * (k + 1)) v).isLt
    simp only [BitVec.extractLsb'_toNat, Nat.shiftRight_eq_div_pow]
    rw [show (256 : ℕ) ^ k = 2 ^ (8 * k) by rw [Nat.pow_mul], Nat.mod_eq_of_lt]
    rw [Nat.div_lt_iff_lt_mul (by positivity), ← pow_add]
    convert h using 2
    ring
  have gen : ∀ k (acc : Nat), (beBytes k v).foldl (fun acc b => acc * 256 + b.toNat) acc =
      acc * 256 ^ k + (BitVec.ofInt (8 * k) v).toNat := by
    intro k
    induction k with
    | zero => intro acc; simp [beBytes]
    | succ k ih =>
      intro acc
      have split : (BitVec.ofInt (8 * (k + 1)) v).toNat =
          (BitVec.ofInt (8 * (k + 1)) v).toNat / 256 ^ k * 256 ^ k +
            (BitVec.ofInt (8 * (k + 1)) v).toNat % 256 ^ k := (Nat.div_add_mod' _ _).symm
      rw [beBytes, List.foldl_cons, ih, low, high, Nat.add_mul, Nat.add_assoc, ← split]
      ring
  simpa [be] using gen k 0

theorem append_bytes_eq (p : F32) :
    p.extractLsb' 24 8 ++ p.extractLsb' 16 8 ++ p.extractLsb' 8 8 ++ p.extractLsb' 0 8 = p := by
  apply BitVec.eq_of_toNat_eq
  have h := p.isLt
  rw [← be_four]
  simp only [be, List.foldl_cons, List.foldl_nil, BitVec.extractLsb'_toNat, Nat.shiftRight_eq_div_pow]
  omega

/-- Float bytes carry the pattern bit for bit, in either order. -/
theorem floatOf_floatBytes (o : FloatOrder) (p : F32) : floatOf o (floatBytes o p) = p := by
  cases o
  · simp only [floatBytes]
    rw [floatOf_lsb, append_bytes_eq]
  · simp only [floatBytes, List.reverse_cons, List.reverse_nil, List.nil_append, List.cons_append]
    rw [floatOf_msb, append_bytes_eq]

theorem floatBytes_length (o : FloatOrder) (p : F32) : (floatBytes o p).length = 4 := by cases o <;> rfl

end Sys2Proof.Machine
end

