-- ==== Sys2Proof/Laws/Memory.lean ====
section
/-! SUPPORT. The laws of the keyed lists and of the wire buffer's memory. -/
namespace Sys2Proof.Machine

variable {α : Type}

@[simp] theorem keyGet_keyPut_self (l : List (Nat × α)) (a : Nat) (x : α) : keyGet (keyPut l a x) a = some x := by
  induction l with
  | nil => simp [keyPut, keyGet]
  | cons p l ih =>
    obtain ⟨k, v⟩ := p
    simp only [keyPut]
    split
    · simp [keyGet]
    · split
      · simp [keyGet]
      · rw [keyGet, if_neg (by omega), ih]

theorem keyGet_keyPut_other (l : List (Nat × α)) {a b : Nat} (x : α) (h : b ≠ a) :
    keyGet (keyPut l a x) b = keyGet l b := by
  induction l with
  | nil => simp [keyPut, keyGet, Ne.symm h]
  | cons p l ih =>
    obtain ⟨k, v⟩ := p
    simp only [keyPut]
    split
    · rw [keyGet, if_neg (Ne.symm h)]
    · split
      · subst k; rw [keyGet, if_neg (Ne.symm h), keyGet, if_neg (Ne.symm h)]
      · rw [keyGet, keyGet, ih]

theorem keyGet_keyPut (l : List (Nat × α)) (a b : Nat) (x : α) :
    keyGet (keyPut l a x) b = if b = a then some x else keyGet l b := by
  split
  · subst b; simp
  · exact keyGet_keyPut_other l x ‹_›

theorem keyGet_filter_key (l : List (Nat × α)) (f : Nat → Bool) (b : Nat) :
    keyGet (l.filter fun p => f p.1) b = if f b = true then keyGet l b else none := by
  induction l with
  | nil => simp [keyGet]
  | cons p l ih =>
    obtain ⟨k, v⟩ := p
    by_cases hk : k = b
    · subst k
      by_cases hf : f b = true <;> simp [hf, keyGet, ih]
    · by_cases hf : f k = true <;> simp [hf, keyGet, hk, ih]

@[simp] theorem keyGet_keyDrop_self (l : List (Nat × α)) (a : Nat) : keyGet (keyDrop l a) a = none := by
  have := keyGet_filter_key l (fun k => k != a) a
  simpa [keyDrop] using this

theorem keyGet_keyDrop_other (l : List (Nat × α)) {a b : Nat} (h : b ≠ a) :
    keyGet (keyDrop l a) b = keyGet l b := by
  have := keyGet_filter_key l (fun k => k != a) b
  simpa [keyDrop, h] using this

/-- The canonical form, as a statement about pairs of places. -/
theorem keysRising_iff (l : List (Nat × α)) : keysRising l = true ↔ l.Pairwise fun p q => p.1 < q.1 := by
  induction l with
  | nil => simp [keysRising]
  | cons p l ih =>
    obtain ⟨a, x⟩ := p
    cases l with
    | nil => simp [keysRising]
    | cons q l =>
      obtain ⟨b, y⟩ := q
      simp only [keysRising, Bool.and_eq_true, decide_eq_true_eq, ih, List.pairwise_cons, List.mem_cons,
        forall_eq_or_imp]
      constructor
      · rintro ⟨hab, hb, hl⟩
        exact ⟨⟨hab, fun p hp => Nat.lt_trans hab (hb p hp)⟩, hb, hl⟩
      · rintro ⟨⟨hab, -⟩, hb, hl⟩
        exact ⟨hab, hb, hl⟩

theorem mem_keyPut {l : List (Nat × α)} {a : Nat} {x : α} {p : Nat × α} (h : p ∈ keyPut l a x) :
    p = (a, x) ∨ p ∈ l := by
  induction l with
  | nil => simpa [keyPut] using h
  | cons q l ih =>
    obtain ⟨k, v⟩ := q
    simp only [keyPut] at h
    split at h
    · simpa using h
    · split at h
      · rcases List.mem_cons.1 h with h | h
        · exact .inl h
        · exact .inr (List.mem_cons_of_mem _ h)
      · rcases List.mem_cons.1 h with h | h
        · exact .inr (h ▸ List.mem_cons_self)
        · rcases ih h with h | h
          · exact .inl h
          · exact .inr (List.mem_cons_of_mem _ h)

/-- A store keeps the canonical form. -/
theorem keysRising_keyPut {l : List (Nat × α)} (a : Nat) (x : α) (h : keysRising l = true) :
    keysRising (keyPut l a x) = true := by
  rw [keysRising_iff] at *
  induction l with
  | nil => simp [keyPut]
  | cons q l ih =>
    obtain ⟨k, v⟩ := q
    rw [List.pairwise_cons] at h
    simp only [keyPut]
    split
    · refine List.pairwise_cons.2 ⟨fun p hp => ?_, List.pairwise_cons.2 h⟩
      rcases List.mem_cons.1 hp with rfl | hp
      · assumption
      · exact Nat.lt_trans ‹_› (h.1 p hp)
    · split
      · subst a; exact List.pairwise_cons.2 h
      · refine List.pairwise_cons.2 ⟨fun p hp => ?_, ih h.2⟩
        rcases mem_keyPut hp with rfl | hp
        · simp only; omega
        · exact h.1 p hp

/-- Leaving entries out keeps the canonical form. -/
theorem keysRising_filter {l : List (Nat × α)} (f : Nat × α → Bool) (h : keysRising l = true) :
    keysRising (l.filter f) = true := by
  rw [keysRising_iff] at *
  exact h.filter f

theorem keysRising_keyDrop {l : List (Nat × α)} (a : Nat) (h : keysRising l = true) :
    keysRising (keyDrop l a) = true := keysRising_filter _ h

theorem keyGet_eq_some_of_mem {l : List (Nat × α)} (h : keysRising l = true) {a : Nat} {x : α}
    (hm : (a, x) ∈ l) : keyGet l a = some x := by
  rw [keysRising_iff] at h
  induction l with
  | nil => cases hm
  | cons q l ih =>
    obtain ⟨k, v⟩ := q
    rw [List.pairwise_cons] at h
    rcases List.mem_cons.1 hm with e | hm
    · cases e; simp [keyGet]
    · have := h.1 _ hm
      rw [keyGet, if_neg (by simp only at this; omega)]
      exact ih h.2 hm

theorem mem_of_keyGet {l : List (Nat × α)} {a : Nat} {x : α} (h : keyGet l a = some x) : (a, x) ∈ l := by
  induction l with
  | nil => simp [keyGet] at h
  | cons q l ih =>
    obtain ⟨k, v⟩ := q
    rw [keyGet] at h
    split at h
    · cases h; subst k; exact List.mem_cons_self
    · exact List.mem_cons_of_mem _ (ih h)

theorem Memory.read_write (m : Memory) (a b : Nat) (w : Word) :
    (m.write a w).read b = if b = a then some w else m.read b := keyGet_keyPut m a b w

theorem Memory.read_below (m : Memory) (a b : Nat) :
    (m.below a).read b = if b < a then m.read b else none := by
  have := keyGet_filter_key m (fun k => decide (k < a)) b
  simpa [Memory.below, Memory.read] using this

@[simp] theorem Memory.read_nil (a : Nat) : Memory.read [] a = none := rfl

theorem Memory.read_ofWords (ws : List Word) (b a : Nat) :
    (Memory.ofWords b ws).read a = if b ≤ a then ws[a - b]? else none := by
  induction ws generalizing b with
  | nil => simp [Memory.ofWords]
  | cons w ws ih =>
    rw [Memory.ofWords, Memory.read, keyGet]
    split
    · subst b; simp
    · have := ih (b + 1)
      rw [Memory.read] at this
      rw [this]
      by_cases h : b + 1 ≤ a
      · rw [if_pos h, if_pos (by omega), show a - b = (a - (b + 1)) + 1 by omega, List.getElem?_cons_succ]
      · rw [if_neg h, if_neg (by omega)]

theorem Memory.keys_ofWords (ws : List Word) (b : Nat) :
    (Memory.ofWords b ws).map (fun p => p.1) = List.range' b ws.length := by
  induction ws generalizing b with
  | nil => rfl
  | cons w ws ih => simp [Memory.ofWords, ih, List.range'_succ]

/-- Every memory operation keeps the canonical form. -/
theorem Memory.wf_write {m : Memory} (a : Nat) (w : Word) (h : m.wf = true) : (m.write a w).wf = true :=
  keysRising_keyPut a w h

theorem Memory.wf_below {m : Memory} (a : Nat) (h : m.wf = true) : (m.below a).wf = true :=
  keysRising_filter _ h

theorem keysRising_of_keys {l : List (Nat × α)} {b n : Nat} (h : l.map (fun p => p.1) = List.range' b n) :
    keysRising l = true := by
  rw [keysRising_iff]
  have h' : (l.map fun p => p.1).Pairwise (· < ·) := by rw [h]; exact List.pairwise_lt_range'
  simpa [List.pairwise_map] using h'

theorem Memory.wf_ofWords (b : Nat) (ws : List Word) : (Memory.ofWords b ws).wf = true :=
  keysRising_of_keys (Memory.keys_ofWords ws b)

theorem Memory.wf_nil : Memory.wf [] = true := rfl

theorem Memory.wf_reset : State.reset.buf.wf = true := rfl

/-- Two memories in canonical form with the same keys and the same readings are equal. -/
theorem Memory.mem_keys_iff {m : Memory} {a : Nat} : a ∈ m.map (fun p => p.1) ↔ (m.read a).isSome = true := by
  constructor
  · intro h
    obtain ⟨p, hp, rfl⟩ := List.mem_map.1 h
    induction m with
    | nil => cases hp
    | cons q m ih =>
      obtain ⟨k, v⟩ := q
      rw [Memory.read, keyGet]
      split
      · rfl
      · rcases List.mem_cons.1 hp with rfl | hp
        · exact absurd rfl ‹_›
        · exact ih hp (List.mem_map_of_mem (f := fun p => p.1) hp)
  · intro h
    obtain ⟨x, hx⟩ := Option.isSome_iff_exists.1 h
    exact List.mem_map.2 ⟨(a, x), mem_of_keyGet hx, rfl⟩

/-- A canonical memory whose readings are exactly the indices below `n` has exactly those keys. -/
theorem Memory.keys_eq_range {m : Memory} {n : Nat} (hw : m.wf = true)
    (h : ∀ a, (m.read a).isSome = true ↔ a < n) : m.map (fun p => p.1) = List.range n := by
  have hs : (m.map fun p => p.1).Pairwise (· < ·) := by
    have := (keysRising_iff m).1 hw
    simpa [List.pairwise_map] using this
  refine List.Perm.eq_of_pairwise (le := (· < ·)) (fun a b _ _ h1 h2 => absurd h1 (by omega)) hs
    List.pairwise_lt_range ?_
  refine (List.perm_ext_iff_of_nodup (hs.imp Nat.ne_of_lt) List.nodup_range).2 fun a => ?_
  rw [Memory.mem_keys_iff, h, List.mem_range]

end Sys2Proof.Machine
end

