-- ==== Sys2Proof/Laws/Ops.lean ====
section
/-! SUPPORT. One law per shared operation over the buffer: when it answers, and everything it then does. -/
namespace Sys2Proof.Machine

open Sys2Proof.Safety

/-! ### Writes -/

theorem putWord_ok {s : State} (w : Word) (h : s.idx < s.capacity) :
    ∃ t, putWord w s = .ok t ∧ Appended s t [w] ∧ (s.buf.wf = true → t.buf.wf = true) := by
  refine ⟨_, if_neg (by omega), ⟨rfl, rfl, fun a => ?_, rfl⟩, fun hw => ?_⟩
  · show ((s.buf.write s.idx w).below (s.idx + 1)).read a = _
    rw [Memory.read_below, Memory.read_write]
    by_cases h1 : a < s.idx
    · rw [if_pos (by omega), if_neg (by omega), if_pos h1]
    · by_cases h2 : a = s.idx
      · subst h2; simp
      · rw [if_neg (by omega), if_neg h1, List.getElem?_eq_none (by simp; omega)]
  · exact Memory.wf_below _ (Memory.wf_write _ _ hw)

theorem putWord_full {s : State} (w : Word) (h : s.capacity ≤ s.idx) : putWord w s = .error .bufferOverflow :=
  if_pos h

theorem appended_capacity {s t : State} {ws : List Word} (h : Appended s t ws) : t.capacity = s.capacity := by
  rw [h.frame]

theorem appended_cons {s t u : State} {w : Word} {ws : List Word} (h1 : Appended s t [w]) (h2 : Appended t u ws) :
    Appended s u (w :: ws) := by
  have hi : t.idx = s.idx + 1 := by simpa using h1.cursor
  refine ⟨by rw [h2.cursor, hi]; simp; omega, by rw [h2.length, hi]; simp; omega, fun a => ?_, ?_⟩
  · rw [h2.memory, h1.memory, hi]
    by_cases h : a < s.idx
    · rw [if_pos (by omega), if_pos h, if_pos h]
    · rw [if_neg h, if_neg h]
      by_cases h' : a = s.idx
      · subst h'; simp
      · rw [if_neg (by omega), show a - s.idx = (a - (s.idx + 1)) + 1 by omega, List.getElem?_cons_succ]
  · have f1 := h1.frame
    have f2 := h2.frame
    rw [f2, f1]

theorem putWords_ok (ws : List Word) {s : State} (hne : ws ≠ []) (h : s.idx + ws.length ≤ s.capacity) :
    ∃ t, putWords ws s = .ok t ∧ Appended s t ws ∧ (s.buf.wf = true → t.buf.wf = true) := by
  induction ws generalizing s with
  | nil => exact absurd rfl hne
  | cons w ws ih =>
    rw [List.length_cons] at h
    obtain ⟨t, ht, ha, hw⟩ := putWord_ok (s := s) w (by omega)
    by_cases hws : ws = []
    · subst hws; exact ⟨t, by simp [putWords, ht], ha, hw⟩
    · have hi : t.idx = s.idx + 1 := by simpa using ha.cursor
      obtain ⟨u, hu, ha', hw'⟩ := ih (s := t) hws (by rw [hi, appended_capacity ha]; omega)
      exact ⟨u, by simp [putWords, ht, hu], appended_cons ha ha', fun h => hw' (hw h)⟩

theorem putWords_full (ws : List Word) {s : State} (hne : ws ≠ []) (h : s.capacity < s.idx + ws.length) :
    putWords ws s = .error .bufferOverflow := by
  induction ws generalizing s with
  | nil => exact absurd rfl hne
  | cons w ws ih =>
    rw [List.length_cons] at h
    by_cases hc : s.capacity ≤ s.idx
    · simp [putWords, putWord_full w hc]
    · obtain ⟨t, ht, ha, -⟩ := putWord_ok (s := s) w (by omega)
      have hi : t.idx = s.idx + 1 := by simpa using ha.cursor
      have hws : ws ≠ [] := by rintro rfl; simp at h; omega
      simp [putWords, ht, ih (s := t) hws (by rw [hi, appended_capacity ha]; omega)]

/-- Everything a write of some words can do. -/
theorem putWords_cases (ws : List Word) {s : State} (hne : ws ≠ []) :
    (s.idx + ws.length ≤ s.capacity ∧ ∃ t, putWords ws s = .ok t ∧ Appended s t ws ∧
      (s.buf.wf = true → t.buf.wf = true)) ∨
    (s.capacity < s.idx + ws.length ∧ putWords ws s = .error .bufferOverflow) := by
  by_cases h : s.idx + ws.length ≤ s.capacity
  · exact .inl ⟨h, putWords_ok ws hne h⟩
  · exact .inr ⟨by omega, putWords_full ws hne (by omega)⟩

/-! ### Reads -/

theorem getByte_ok {s : State} {w : Word} (h : wordAt s s.idx = some w) :
    getByte s = .ok (byteOf w, { s with idx := s.idx + 1 }) := by simp [getByte, h]

theorem getByte_none {s : State} (h : wordAt s s.idx = none) : getByte s = .error .bufferOverrun := by
  simp [getByte, h]

@[simp] theorem wordAt_idx (s : State) (i a : Nat) : wordAt { s with idx := i } a = wordAt s a := rfl

theorem atCursor_cons {s : State} {w : Word} {ws : List Word} (h : AtCursor s (w :: ws)) :
    wordAt s s.idx = some w ∧ AtCursor { s with idx := s.idx + 1 } ws := by
  refine ⟨by simpa using h 0 (by simp), fun j hj => ?_⟩
  have := h (j + 1) (by simp; omega)
  rw [List.getElem?_cons_succ] at this
  show wordAt s (s.idx + 1 + j) = _
  rw [← this]; congr 1; omega

theorem getBytes_ok {s : State} (ws : List Word) (h : AtCursor s ws) :
    getBytes ws.length s = .ok (ws.map byteOf, { s with idx := s.idx + ws.length }) := by
  induction ws generalizing s with
  | nil => rfl
  | cons w ws ih =>
    obtain ⟨h0, h1⟩ := atCursor_cons h
    have := ih h1
    simp only [List.length_cons, getBytes, getByte_ok h0, this, List.map_cons]
    congr 3
    omega

/-- Everything a read of `k` bytes can do. -/
theorem getBytes_cases (k : Nat) (s : State) :
    (∃ ws : List Word, ws.length = k ∧ AtCursor s ws) ∨ getBytes k s = .error .bufferOverrun := by
  induction k generalizing s with
  | zero => exact .inl ⟨[], rfl, fun j hj => by simp at hj⟩
  | succ k ih =>
    cases h0 : wordAt s s.idx with
    | none => exact .inr (by simp [getBytes, getByte_none h0])
    | some w =>
      rcases ih { s with idx := s.idx + 1 } with ⟨ws, hl, hw⟩ | h
      · refine .inl ⟨w :: ws, by simp [hl], fun j hj => ?_⟩
        cases j with
        | zero => simpa using h0
        | succ j =>
          have := hw j (by simpa using hj)
          rw [List.getElem?_cons_succ, ← this]
          show wordAt s _ = wordAt s _
          congr 1
          show _ = s.idx + 1 + j
          omega
      · exact .inr (by simp [getBytes, getByte_ok h0, h])

theorem atCursor_le {s : State} {ws : List Word} (h : AtCursor s ws) (hne : ws ≠ []) :
    s.idx + ws.length ≤ s.len := by
  have hp := List.length_pos_iff.2 hne
  have := h (ws.length - 1) (by omega)
  rw [List.getElem?_eq_getElem (by omega)] at this
  unfold wordAt at this
  split at this
  · omega
  · cases this

theorem getBytes_short {s : State} {k : Nat} (hk : 0 < k) (h : s.len < s.idx + k) :
    getBytes k s = .error .bufferOverrun := by
  rcases getBytes_cases k s with ⟨ws, hl, hw⟩ | h'
  · have := atCursor_le hw (by rintro rfl; simp at hl; omega)
    omega
  · exact h'

theorem atCursor_append {s : State} {us vs : List Word} (h : AtCursor s (us ++ vs)) :
    AtCursor s us ∧ AtCursor { s with idx := s.idx + us.length } vs := by
  constructor
  · intro j hj
    have := h j (by simp; omega)
    rwa [List.getElem?_append_left hj] at this
  · intro j hj
    have := h (us.length + j) (by simp; omega)
    rw [List.getElem?_append_right (by omega), Nat.add_sub_cancel_left] at this
    rw [← this]
    show wordAt s _ = wordAt s _
    congr 1
    show s.idx + us.length + j = _
    omega

theorem readUnsigned_ok {s : State} (ws : List Word) (h : AtCursor s ws) :
    readUnsigned ws.length s = .ok (be (ws.map byteOf), { s with idx := s.idx + ws.length }) := by
  simp [readUnsigned, getBytes_ok ws h]

theorem readSigned_ok {s : State} (ws : List Word) (h : AtCursor s ws) :
    readSigned ws.length s =
      .ok (sext (8 * ws.length) (be (ws.map byteOf)), { s with idx := s.idx + ws.length }) := by
  simp [readSigned, getBytes_ok ws h]

theorem readFloat_ok {s : State} {a b c d : Word} (h : AtCursor s [a, b, c, d]) :
    readFloat s = .ok (floatOf s.params.floatOrder [byteOf a, byteOf b, byteOf c, byteOf d],
      { s with idx := s.idx + 4 }) := by
  have := getBytes_ok _ h
  simp only [List.length_cons, List.length_nil, List.map_cons, List.map_nil] at this
  simp [readFloat, this]

/-- Reading `k` floats is reading `4 * k` bytes. -/
theorem readFloats_ok (k : Nat) {s : State} (ws : List Word) (hl : ws.length = 4 * k) (h : AtCursor s ws) :
    readFloats k s = .ok (floatsOf s.params.floatOrder (ws.map byteOf) k, { s with idx := s.idx + 4 * k }) := by
  induction k generalizing s ws with
  | zero => rfl
  | succ k ih =>
    match ws, hl with
    | a :: b :: c :: d :: ws, hl =>
      obtain ⟨h4, hr⟩ := atCursor_append (us := [a, b, c, d]) (vs := ws) h
      have := ih (s := { s with idx := s.idx + 4 }) ws (by simp at hl; omega) hr
      rw [readFloats, readFloat_ok h4]
      simp only [this]
      congr 3
      · simp only [floatsOf, List.range_succ_eq_map, List.map_cons, List.map_map]
        congr 1
      · omega

/-- Whatever is read, only the cursor moves. -/
theorem getBytes_frame {k : Nat} {s t : State} {bs : List Byte} (h : getBytes k s = .ok (bs, t)) :
    t = { s with idx := s.idx + k } ∧ bs.length = k := by
  rcases getBytes_cases k s with ⟨ws, hl, hw⟩ | h'
  · have := getBytes_ok ws hw
    rw [hl] at this
    rw [this] at h
    cases h
    exact ⟨rfl, by simpa using hl⟩
  · rw [h'] at h; cases h

/-! ### Buffer management and predicates -/

theorem loadBuffer_ok {s : State} {ws : List Word} (h : ws.length ≤ s.capacity) :
    loadBuffer ws s = .ok { s with buf := Memory.ofWords 0 ws, len := ws.length, idx := 0 } := if_neg (by omega)

theorem loadBuffer_full {s : State} {ws : List Word} (h : s.capacity < ws.length) :
    loadBuffer ws s = .error .bufferOverflow := if_pos h

/-- A loaded buffer is well formed. -/
theorem loaded_bufferOk {s : State} {ws : List Word} (h : ws.length ≤ s.capacity) :
    BufferOk { s with buf := Memory.ofWords 0 ws, len := ws.length, idx := 0 } :=
  ⟨by simp [Memory.keys_ofWords, List.range_eq_range'], Nat.zero_le _, h⟩

theorem bufferOk_read {s : State} (h : BufferOk s) (a : Nat) : (s.buf.read a).isSome = true ↔ a < s.len := by
  rw [← Memory.mem_keys_iff, h.words, List.mem_range]

theorem bufferOk_wordAt {s : State} (h : BufferOk s) {a : Nat} (ha : a < s.len) : ∃ w, wordAt s a = some w := by
  rw [wordAt, if_pos ha]
  exact Option.isSome_iff_exists.1 ((bufferOk_read h a).2 ha)

/-- The words from the cursor on stand there in a well-formed buffer. -/
theorem bufferOk_atIndex {s : State} (h : BufferOk s) (i k : Nat) (hk : i + k ≤ s.len) :
    ∃ ws : List Word, ws.length = k ∧ AtIndex s i ws := by
  induction k generalizing i with
  | zero => exact ⟨[], rfl, fun j hj => by simp at hj⟩
  | succ k ih =>
    obtain ⟨w, hw⟩ := bufferOk_wordAt h (a := i) (by omega)
    obtain ⟨ws, hl, hws⟩ := ih (i + 1) (by omega)
    refine ⟨w :: ws, by simp [hl], fun j hj => ?_⟩
    cases j with
    | zero => simpa using hw
    | succ j =>
      have := hws j (by simpa using hj)
      rw [List.getElem?_cons_succ, ← this]
      congr 1; omega

theorem findEof_spec (s : State) (fuel j : Nat) :
    j ≤ findEof s fuel j ∧ findEof s fuel j ≤ j + fuel ∧
      (∀ i, j ≤ i → i < findEof s fuel j → classAt s i .eofw = false) ∧
      (findEof s fuel j < j + fuel → classAt s (findEof s fuel j) .eofw = true) := by
  induction fuel generalizing j with
  | zero => exact ⟨Nat.le_refl _, Nat.le_refl _, fun i h1 h2 => by simp [findEof] at h2; omega, fun h => by
      simp [findEof] at h⟩
  | succ fuel ih =>
    rw [findEof]
    split
    · exact ⟨Nat.le_refl _, by omega, fun i h1 h2 => by omega, fun _ => ‹_›⟩
    · obtain ⟨h1, h2, h3, h4⟩ := ih (j + 1)
      refine ⟨by omega, by omega, fun i hi hlt => ?_, fun h => h4 (by omega)⟩
      by_cases hij : i = j
      · subst i; exact Bool.eq_false_iff.2 ‹_›
      · exact h3 i (by omega) hlt

/-- Where `skipToNextFrame` goes. -/
theorem nextFrame_cases (s : State) (h : s.idx ≤ s.len) :
    (∃ j, s.idx ≤ j ∧ j < s.len ∧ classAt s j .eofw = true ∧
      (∀ i, s.idx ≤ i → i < j → classAt s i .eofw = false) ∧ nextFrame s = j + 1) ∨
    ((∀ i, s.idx ≤ i → i < s.len → classAt s i .eofw = false) ∧ nextFrame s = s.len) := by
  obtain ⟨h1, h2, h3, h4⟩ := findEof_spec s (s.len - s.idx) s.idx
  unfold nextFrame
  by_cases hlt : findEof s (s.len - s.idx) s.idx < s.len
  · refine .inl ⟨_, h1, hlt, h4 (by omega), h3, ?_⟩
    simp only [hlt, if_true]
  · refine .inr ⟨fun i hi hl => h3 i hi (by omega), ?_⟩
    simp only [hlt, if_false]
    omega

theorem nextFrame_bounds (s : State) (h : s.idx ≤ s.len) :
    s.idx ≤ nextFrame s ∧ nextFrame s ≤ s.len ∧ (s.idx < s.len → s.idx < nextFrame s) := by
  rcases nextFrame_cases s h with ⟨j, h1, h2, -, -, h5⟩ | ⟨-, h5⟩ <;> omega

/-- Where the scan goes depends on the buffer and the cursor alone. -/
theorem classAt_congr {s t : State} (hb : t.buf = s.buf) (hl : t.len = s.len) (i : Nat) (c : WordClass) :
    classAt t i c = classAt s i c := by simp [classAt, wordAt, hb, hl]

theorem findEof_congr {s t : State} (hb : t.buf = s.buf) (hl : t.len = s.len) (fuel j : Nat) :
    findEof t fuel j = findEof s fuel j := by
  induction fuel generalizing j with
  | zero => rfl
  | succ fuel ih => simp [findEof, ih, classAt_congr hb hl]

theorem nextFrame_congr {s t : State} (hb : t.buf = s.buf) (hl : t.len = s.len) (hi : t.idx = s.idx) :
    nextFrame t = nextFrame s := by
  unfold nextFrame
  rw [findEof_congr hb hl, hl, hi]

/-- Skipping from a later place with no end-of-frame word before it ends at the same place. -/
theorem nextFrame_of_later {s t : State} (hb : t.buf = s.buf) (hl : t.len = s.len) (h1 : s.idx ≤ t.idx)
    (h2 : t.idx ≤ s.len) (h : ∀ i, s.idx ≤ i → i < t.idx → classAt s i .eofw = false) :
    nextFrame t = nextFrame s := by
  rcases nextFrame_cases s (by omega) with ⟨j, a1, a2, a3, a4, a5⟩ | ⟨a1, a2⟩ <;>
    rcases nextFrame_cases t (by omega) with ⟨k, b1, b2, b3, b4, b5⟩ | ⟨b1, b2⟩
  · rw [a5, b5]
    rw [classAt_congr hb hl] at b3
    have hj : t.idx ≤ j := by
      by_contra hc
      have := h j a1 (by omega)
      rw [this] at a3; cases a3
    rcases Nat.lt_trichotomy j k with hlt | rfl | hgt
    · have := b4 j hj hlt
      rw [classAt_congr hb hl, a3] at this; cases this
    · rfl
    · have := a4 k (by omega) hgt
      rw [b3] at this; cases this
  · have hj : t.idx ≤ j := by
      by_contra hc
      have := h j a1 (by omega)
      rw [this] at a3; cases a3
    have := b1 j hj (by omega)
    rw [classAt_congr hb hl, a3] at this; cases this
  · rw [classAt_congr hb hl] at b3
    have := a1 k (by omega) (by omega)
    rw [this] at b3; cases b3
  · omega

theorem tsBytesAt_length_le (s : State) (fuel i : Nat) : (tsBytesAt s fuel i).length ≤ fuel := by
  induction fuel generalizing i with
  | zero => simp [tsBytesAt]
  | succ fuel ih =>
    unfold tsBytesAt
    split
    · split
      · simpa using ih (i + 1)
      · simp
    · simp

/-- What the timestamp scan takes: the timestamp words from `i` on, at most `fuel` of them. -/
theorem tsBytesAt_spec (s : State) (fuel i : Nat) :
    (∀ j, j < (tsBytesAt s fuel i).length → ∃ w, wordAt s (i + j) = some w ∧ classify w = .ts ∧
      (tsBytesAt s fuel i)[j]? = some (tsByteOf w)) ∧
    ((tsBytesAt s fuel i).length < fuel → classAt s (i + (tsBytesAt s fuel i).length) .ts = false) := by
  induction fuel generalizing i with
  | zero => exact ⟨fun j hj => by simp [tsBytesAt] at hj, fun h => by simp at h⟩
  | succ fuel ih =>
    unfold tsBytesAt
    split
    · rename_i w hw
      split
      · rename_i hc
        obtain ⟨h1, h2⟩ := ih (i + 1)
        refine ⟨fun j hj => ?_, fun h => ?_⟩
        · cases j with
          | zero => exact ⟨w, hw, hc, rfl⟩
          | succ j =>
            obtain ⟨x, hx, hxc, hxb⟩ := h1 j (by simpa using hj)
            exact ⟨x, by rw [← hx]; congr 1; omega, hxc, by simpa using hxb⟩
        · have := h2 (by simpa using h)
          rw [← this, List.length_cons]; congr 1; omega
      · rename_i hc
        exact ⟨fun j hj => by simp at hj, fun _ => by simp [classAt, hw, hc]⟩
    · rename_i hw
      exact ⟨fun j hj => by simp at hj, fun _ => by simp [classAt, hw]⟩

/-! ### Warnings, counters, bus lists, map -/

theorem raise_eq (k : WarnKind) (aid : Int) (s : State) : raise k aid s = warned s k aid := rfl

theorem busList_setBusList_self (op : Op) (items : List Item) (s : State) :
    busList op (setBusList op items s) = items := by
  unfold setBusList busList
  by_cases h : items.isEmpty = true
  · simp only [h, if_true, keyGet_keyDrop_self]
    simpa using (List.isEmpty_iff.1 h).symm
  · simp [h]

theorem busList_setBusList_other {op op' : Op} (items : List Item) (s : State) (h : op' ≠ op) :
    busList op' (setBusList op items s) = busList op' s := by
  unfold setBusList busList
  by_cases h' : items.isEmpty = true
  · simp only [h', if_true, keyGet_keyDrop_other _ h]
  · simp only [h', Bool.false_eq_true, if_false, keyGet_keyPut_other _ _ h]

theorem setExp_exp_self (dt : DeviceType) (l : List Int) (s : State) : (s.setExp dt l).exp dt = l := by
  cases dt <;> rfl

theorem setExp_exp_other {dt dt' : DeviceType} (l : List Int) (s : State) (h : dt' ≠ dt) :
    (s.setExp dt l).exp dt' = s.exp dt' := by
  cases dt <;> cases dt' <;> first | rfl | exact absurd rfl h

@[simp] theorem addAt_length (l : List Int) (i d : Int) : (addAt l i d).length = l.length := by
  unfold addAt; split <;> simp

/-- `addAt` element by element. -/
theorem addAt_eq (l : List Int) (i d : Int) :
    addAt l i d = l.mapIdx fun j v => if i = (j : Int) then v + d else v := by
  unfold addAt
  split
  · rename_i h
    refine List.ext_getElem? fun j => ?_
    rw [List.getElem?_modify, List.getElem?_mapIdx]
    cases l[j]? with
    | none => rfl
    | some v =>
      simp only [Option.map_some]
      show some (if i.toNat = j then v + d else v) = some (if i = (j : Int) then v + d else v)
      by_cases e : i.toNat = j
      · rw [if_pos e, if_pos (by omega)]
      · rw [if_neg e, if_neg (by omega)]
  · rename_i h
    refine List.ext_getElem? fun j => ?_
    rw [List.getElem?_mapIdx]
    cases l[j]? with
    | none => rfl
    | some v => rw [Option.map_some, if_neg (by omega)]

end Sys2Proof.Machine
end

