-- ==== Sys2Proof/Laws/Crc.lean ====
section
/-! SUPPORT. The laws of the CRC unit: its loop is linear and injective, and what its operations do. -/
namespace Sys2Proof.Machine

open Sys2Proof.Safety

theorem crcShift_eq (c : Word) : crcShift c = (c >>> 1) ^^^ (if c.getLsbD 0 then 0xA001#16 else 0#16) := by
  unfold crcShift; split <;> simp

theorem crcShift_xor (a b : Word) : crcShift (a ^^^ b) = crcShift a ^^^ crcShift b := by
  rw [crcShift_eq, crcShift_eq, crcShift_eq, BitVec.ushiftRight_xor_distrib, BitVec.getLsbD_xor]
  have h : ∀ x y : Bool, (if (x ^^ y) then 0xA001#16 else 0#16) =
      (if x then 0xA001#16 else 0#16) ^^^ (if y then 0xA001#16 else 0#16) := by decide
  rw [h]
  ac_rfl

/-- The loop is linear over xor. -/
theorem crcShifts_xor (k : Nat) (a b : Word) : crcShifts k (a ^^^ b) = crcShifts k a ^^^ crcShifts k b := by
  induction k generalizing a b with
  | zero => rfl
  | succ k ih => rw [crcShifts, crcShift_xor, ih]; rfl

/-- A high byte comes down unchanged in eight shifts. -/
theorem crcShifts_high (h : Byte) : crcShifts 8 (h.setWidth 16 <<< 8) = h.setWidth 16 := by
  revert h; decide +kernel

/-- A nonzero low byte leaves a nonzero high byte. -/
theorem crcShifts_low (d : Byte) (h : (crcShifts 8 (d.setWidth 16)) >>> 8 = 0#16) : d = 0#8 := by
  revert d; decide +kernel

theorem word_split (hi lo : Byte) : (hi ++ lo : Word) = lo.setWidth 16 ^^^ (hi.setWidth 16 <<< 8) := by
  apply BitVec.eq_of_getLsbD_eq
  intro i hi'
  rw [BitVec.getLsbD_append]
  simp only [BitVec.getLsbD_xor, BitVec.getLsbD_shiftLeft, BitVec.getLsbD_setWidth, hi']
  by_cases h : i < 8
  · simp [h]
  · simp [h, BitVec.getLsbD_of_ge lo i (by omega), show i - 8 < 16 by omega]

theorem word_bytes (c : Word) : c = (c.extractLsb' 8 8 ++ c.extractLsb' 0 8 : Word) := by
  apply BitVec.eq_of_toNat_eq
  have h := c.isLt
  rw [← be_two]
  simp only [be, List.foldl_cons, List.foldl_nil, BitVec.extractLsb'_toNat, Nat.shiftRight_eq_div_pow]
  omega

/-- The loop is injective. -/
theorem crcShifts_injective {a b : Word} (h : crcShifts 8 a = crcShifts 8 b) : a = b := by
  have hz : ∀ c : Word, crcShifts 8 c = 0#16 → c = 0#16 := by
    intro c hc
    rw [word_bytes c, word_split] at hc ⊢
    rw [crcShifts_xor, crcShifts_high] at hc
    generalize c.extractLsb' 8 8 = hi at *
    generalize c.extractLsb' 0 8 = lo at *
    have h2 : crcShifts 8 (lo.setWidth 16) = hi.setWidth 16 := BitVec.xor_eq_zero_iff.1 hc
    have h3 : (crcShifts 8 (lo.setWidth 16)) >>> 8 = 0#16 := by
      rw [h2]
      clear hc h2
      revert hi; decide +kernel
    have h4 := crcShifts_low lo h3
    subst h4
    have h5 : hi.setWidth 16 = 0#16 := by rw [← h2]; decide
    rw [h5]; decide
  have h1 : crcShifts 8 (a ^^^ b) = 0#16 := by rw [crcShifts_xor, h, BitVec.xor_self]
  exact BitVec.xor_eq_zero_iff.1 (hz _ h1)

theorem setWidth_byte_injective {a b : Byte} (h : a.setWidth 16 = b.setWidth 16) : a = b := by
  have := congrArg (fun x : Word => x.setWidth 8) h
  simpa using this

theorem crcByte_injective_crc {a b : Word} (x : Byte) (h : crcByte a x = crcByte b x) : a = b := by
  have := crcShifts_injective h
  have := congrArg (· ^^^ x.setWidth 16) this
  simpa [BitVec.xor_assoc] using this

theorem crcByte_injective_byte (c : Word) {a b : Byte} (h : crcByte c a = crcByte c b) : a = b := by
  have := crcShifts_injective h
  have := congrArg (c ^^^ ·) this
  simp only [← BitVec.xor_assoc, BitVec.xor_self, BitVec.zero_xor] at this
  exact setWidth_byte_injective this

theorem foldl_crcByte_injective {bs : List Byte} {a b : Word} (h : bs.foldl crcByte a = bs.foldl crcByte b) :
    a = b := by
  induction bs generalizing a b with
  | nil => exact h
  | cons x bs ih => exact crcByte_injective_crc x (ih h)

theorem crc16_append (m n : List Byte) : crc16 (m ++ n) = n.foldl crcByte (crc16 m) := by
  simp [crc16]

/-- Reading a span of words that stand in the buffer. -/
theorem wordsAt_ok {s : State} (ws : List Word) {i : Nat} (h : AtIndex s i ws) :
    wordsAt s i ws.length = some ws := by
  induction ws generalizing i with
  | nil => rfl
  | cons w ws ih =>
    have h0 : wordAt s i = some w := by simpa using h 0 (by simp)
    have h1 : AtIndex s (i + 1) ws := fun j hj => by
      have := h (j + 1) (by simp; omega)
      rw [List.getElem?_cons_succ] at this
      rw [← this]; congr 1; omega
    simp [wordsAt, h0, ih h1]

theorem calculateCRC_ok {s : State} {i : Nat} {ws : List Word} (h : AtIndex s i ws) (hl : i + ws.length ≤ s.len) :
    calculateCRC i ws.length s = .ok (crc16 (ws.map byteOf)) := by
  rw [calculateCRC, if_neg (by omega), wordsAt_ok ws h]

theorem crcOfWords_eq (lo hi : Word) : crcOfWords lo hi = byteOf hi ++ byteOf lo := by
  rw [word_split, crcOfWords]
  apply BitVec.eq_of_getLsbD_eq
  intro i hi'
  simp only [BitVec.getLsbD_xor, BitVec.getLsbD_or, BitVec.getLsbD_shiftLeft, BitVec.getLsbD_setWidth, hi']
  by_cases h : i < 8
  · simp [h]
  · simp [h, BitVec.getLsbD_of_ge (byteOf lo) i (by omega)]

theorem atIndex_le {s : State} {i : Nat} {ws : List Word} (h : AtIndex s i ws) (hne : ws ≠ []) :
    i + ws.length ≤ s.len := by
  have hp := List.length_pos_iff.2 hne
  have := h (ws.length - 1) (by omega)
  rw [List.getElem?_eq_getElem (by omega)] at this
  unfold wordAt at this
  split at this
  · omega
  · cases this

/-- The check of a frame of fewer than two words: both values are free (log 28). -/
theorem checkFrameCRC_short {n : Nat} (h : n < 2) (fs : Nat) (s : State) :
    checkFrameCRC fs n s =
      .ok (decide (Config.freeWord s.freeCount = Config.freeWord (s.freeCount + 1)),
        { s with
          crcCalc := Config.freeWord s.freeCount, crcRx := Config.freeWord (s.freeCount + 1)
          freeCount := s.freeCount + 2 }) := by
  rw [checkFrameCRC, if_pos h]

/-- Everything the check of a frame whose words stand in the buffer does. -/
theorem checkFrameCRC_ok {s : State} {fs : Nat} {ws : List Word} {m : List Byte} {lo hi : Byte}
    (h : AtIndex s fs ws) (hb : ws.map byteOf = m ++ [lo, hi]) :
    checkFrameCRC fs ws.length s =
      .ok (decide (crc16 m = hi ++ lo), { s with crcCalc := crc16 m, crcRx := hi ++ lo }) := by
  have hlen : ws.length = m.length + 2 := by simpa using congrArg List.length hb
  obtain ⟨us, vs, rfl, h1, h2⟩ : ∃ us vs, ws = us ++ vs ∧ us.map byteOf = m ∧ vs.map byteOf = [lo, hi] :=
    List.map_eq_append_iff.1 hb
  match vs, h2 with
  | [x, y], h2 =>
    simp only [List.map_cons, List.map_nil, List.cons.injEq, and_true] at h2
    obtain ⟨rfl, rfl⟩ := h2
    subst h1
    have hle := atIndex_le h (by simp)
    have hu : AtIndex s fs us := fun j hj => by
      rw [h j (by simp; omega), List.getElem?_append_left hj]
    have hx : wordAt s (fs + us.length) = some x := by
      rw [h us.length (by simp), List.getElem?_append_right (Nat.le_refl _)]; simp
    have hy : wordAt s (fs + us.length + 1) = some y := by
      rw [Nat.add_assoc, h (us.length + 1) (by simp), List.getElem?_append_right (by omega)]; simp
    have hn : (us ++ [x, y]).length = us.length + 2 := by simp
    have hc := calculateCRC_ok hu (by simp at hle; omega)
    rw [checkFrameCRC, hn, if_neg (by omega), show us.length + 2 - 2 = us.length by omega, hc]
    simp only [show fs + (us.length + 2) - 2 = fs + us.length by omega,
      show fs + (us.length + 2) - 1 = fs + us.length + 1 by omega, hx, hy, crcOfWords_eq]

/-- Everything `writeCRC` over a span of TX data words can do. -/
theorem writeCRC_eq {s : State} {bs : List Byte} (h : bs.length ≤ s.idx)
    (hs : AtIndex s (s.idx - bs.length) (bs.map txdWord)) :
    writeCRC bs.length s =
      putWords [txdWord ((crc16 bs).extractLsb' 0 8), txdWord ((crc16 bs).extractLsb' 8 8)] s := by
  have hw := wordsAt_ok _ hs
  rw [List.length_map] at hw
  rw [writeCRC, if_neg (by omega), hw]
  have ht : (bs.map txdWord).all isTxd = true := by simp
  simp only [ht, if_true, map_byteOf_txdWord]
  rfl

end Sys2Proof.Machine
end

