-- ==== Sys2Proof/Laws/Decode.lean ====
section
/-! SUPPORT. The laws of the call port's codec: each operand's words read back as the operand, whatever follows. -/
namespace Sys2Proof

open Sys2Proof.Machine

/-- The parser reads `a` from the words `ws` and leaves what follows them. -/
def Reads {α : Type} (p : Parser α) (ws : List Word) (a : α) : Prop := ∀ rest, p (ws ++ rest) = .ok (a, rest)

variable {α β : Type}

theorem Reads.map {p : Parser α} {ws : List Word} {a : α} (h : Reads p ws a) (f : α → β) :
    Reads (p.map f) ws (f a) := fun rest => by rw [Parser.map, h rest]

theorem Reads.filterMap {p : Parser α} {ws : List Word} {a : α} (h : Reads p ws a) {f : α → Option β} {b : β}
    (hf : f a = some b) : Reads (p.filterMap f) ws b := fun rest => by simp only [Parser.filterMap, h rest, hf]

theorem Reads.pair {p : Parser α} {q : Parser β} {us vs : List Word} {a : α} {b : β} (h : Reads p us a)
    (g : Reads q vs b) : Reads (p.pair q) (us ++ vs) (a, b) := fun rest => by
  rw [Parser.pair, List.append_assoc, h (vs ++ rest)]
  simp only [g rest]

theorem reads_nothing (a : α) : Reads (.nothing a) [] a := fun _ => rfl

/-- A natural reads back. -/
theorem reads_encNatFuel (f n : Nat) (h : n ≤ f) : Reads parseNat (encNatFuel f n) n := by
  induction f generalizing n with
  | zero =>
    intro rest
    obtain rfl : n = 0 := by omega
    rfl
  | succ f ih =>
    intro rest
    rw [encNatFuel]
    split
    · rename_i hn
      have : (BitVec.ofNat 16 n).toNat = n := by rw [BitVec.toNat_ofNat]; omega
      rw [List.cons_append, List.nil_append, parseNat, this, if_pos hn]
    · rename_i hn
      have : (BitVec.ofNat 16 (n % 32768 + 32768)).toNat = n % 32768 + 32768 := by
        rw [BitVec.toNat_ofNat]; omega
      rw [List.cons_append, parseNat, this, if_neg (by omega), ih (n / 32768) (by omega) rest]
      have : n % 32768 + 32768 - 32768 + 32768 * (n / 32768) = n := by omega
      simp only [this]

theorem reads_nat (n : Nat) : Reads parseNat (encNat n) n := reads_encNatFuel n n (Nat.le_refl n)

theorem intOfNat_natOfInt (i : Int) : intOfNat (natOfInt i) = i := by
  cases i with
  | ofNat n =>
    have h : 2 * n % 2 = 0 ∧ 2 * n / 2 = n := by omega
    simp only [natOfInt, intOfNat, h.1, h.2, if_true]
  | negSucc n =>
    have h : (2 * n + 1) % 2 ≠ 0 ∧ (2 * n + 1) / 2 = n := by omega
    simp only [natOfInt, intOfNat, h.1, h.2, if_false]

theorem reads_int (i : Int) : Reads parseInt (encInt i) i := by
  have := (reads_nat (natOfInt i)).map intOfNat
  rwa [intOfNat_natOfInt] at this

theorem reads_bits {k : Nat} (b : BitVec k) : Reads (parseBits k) (encBits b) b :=
  (reads_nat b.toNat).filterMap (by rw [if_pos b.isLt, BitVec.ofNat_toNat, BitVec.setWidth_eq])

theorem reads_deviceType (dt : DeviceType) : Reads parseDeviceType (encNat (deviceTypeCode dt)) dt :=
  (reads_nat _).filterMap (by cases dt <;> rfl)

theorem reads_orientation (o : Orientation) : Reads parseOrientation (encNat (orientationCode o)) o :=
by
  have := (reads_nat (orientationCode o)).map fun n : Nat =>
    if n = 0 then Orientation.plusX else if n = 1 then .minusX
    else if n = 2 then .plusY else if n = 3 then .minusY else .other (n - 4)
  cases o <;> exact this

theorem reads_warnKind (k : WarnKind) : Reads parseWarnKind (encNat k.code) k :=
  (reads_nat _).filterMap (by cases k <;> rfl)

theorem reads_times {p : Parser α} {e : α → List Word} (l : List α) (h : ∀ a ∈ l, Reads p (e a) a) :
    Reads (p.times l.length) (l.flatMap e) l := by
  induction l with
  | nil => exact reads_nothing []
  | cons a l ih =>
    exact ((h a List.mem_cons_self).pair (ih fun b hb => h b (List.mem_cons_of_mem a hb))).map
      fun x => x.1 :: x.2

theorem reads_list {p : Parser α} {e : α → List Word} (l : List α) (h : ∀ a ∈ l, Reads p (e a) a) :
    Reads p.list (encList e l) l := fun rest => by
  rw [Parser.list, encList, List.append_assoc, reads_nat l.length (l.flatMap e ++ rest)]
  exact reads_times l h rest

theorem reads_bitsList {k : Nat} (l : List (BitVec k)) : Reads (parseBits k).list (encList encBits l) l :=
  reads_list l fun b _ => reads_bits b

theorem reads_channel (c : ILCMap) : Reads (parseChannel c.deviceType) (encChannel c) c := by
  have := (((((((reads_int c.dataIndex).pair ((reads_int c.secondaryDataIndex).pair ((reads_int c.xDataIndex).pair
    ((reads_int c.yDataIndex).pair ((reads_int c.actuatorId).pair (reads_orientation c.orientation)))))))))).map
      fun x => (⟨c.deviceType, x.1, x.2.1, x.2.2.1, x.2.2.2.1, x.2.2.2.2.1, x.2.2.2.2.2⟩ : ILCMap))
  simp only [encChannel, List.append_assoc]
  exact this

theorem reads_routed (f : Routed) : Reads (parseRouted f.ch.deviceType) (encRouted f) f := by
  have := ((reads_channel f.ch).pair ((reads_int f.subnet).pair ((reads_bits f.addr).pair
    ((reads_nat f.k).pair (reads_bits f.ts))))).map
      fun x => (⟨x.1, x.2.1, x.2.2.1, x.2.2.2.1, x.2.2.2.2⟩ : Routed)
  simp only [encRouted, List.append_assoc]
  exact this

theorem reads_mapEntry (e : MapEntry) : Reads parseMapEntry (encMapEntry e) e := fun rest => by
  have h := ((reads_int e.subnet).pair ((reads_bits e.address).pair (reads_deviceType e.channel.deviceType)))
    (encChannel e.channel ++ rest)
  have h' : encMapEntry e ++ rest =
      (encInt e.subnet ++ (encBits e.address ++ encNat (deviceTypeCode e.channel.deviceType))) ++
        (encChannel e.channel ++ rest) := by simp only [encMapEntry, List.append_assoc]
  rw [h', parseMapEntry, h]
  exact ((reads_channel e.channel).map fun c => (⟨e.subnet, e.address, c⟩ : MapEntry)) rest

theorem reads_dispatch (f : Routed) (fn : Byte) :
    Reads parseDispatch (encNat (deviceTypeCode f.ch.deviceType) ++ encRouted f ++ encBits fn) (.dispatch f fn) :=
  fun rest => by
    rw [parseDispatch, List.append_assoc, List.append_assoc, reads_deviceType f.ch.deviceType]
    have := (((reads_routed f).pair (reads_bits fn)).map fun x => Instr.dispatch x.1 x.2) rest
    rwa [List.append_assoc] at this

theorem reads_request (g : Op → Int → Byte → List Byte → Instr) (op : Op) (s : Int) (a : Byte) (p : List Byte) :
    Reads (parseRequest g) (encRequest op s a p) (g op s a p) := by
  have := ((reads_nat op).pair ((reads_int s).pair ((reads_bits a).pair (reads_bitsList p)))).map
    fun x => g x.1 x.2.1 x.2.2.1 x.2.2.2
  simp only [encRequest, List.append_assoc]
  exact this

theorem reads_broadcast (g : Op → Int → List Byte → Instr) (op : Op) (s : Int) (p : List Byte) :
    Reads (parseBroadcast g) (encBroadcast op s p) (g op s p) := by
  have := ((reads_nat op).pair ((reads_int s).pair (reads_bitsList p))).map fun x => g x.1 x.2.1 x.2.2
  simp only [encBroadcast, List.append_assoc]
  exact this

/-- A call decodes to what its operand reader reads. -/
theorem decode_call {op : Nat} {p : Parser Instr} {ws : List Word} {i : Instr}
    (ht : tag (BitVec.ofNat 16 op) = 0#4) (hp : operandParser (BitVec.ofNat 16 op).toNat callTable = some p)
    (h : Reads p ws i) (rest : List Word) : decode (call op ws ++ rest) = .ok (i, rest) := by
  rw [call, List.cons_append, decode, if_pos ht, hp]
  exact h rest

/-- A word whose tag is not 0 decodes by its own pattern. -/
theorem decode_word {w : Word} (h : tag w ≠ 0#4) (rest : List Word) :
    decode (w :: rest) = .ok (decodeTransport w, rest) := by
  rw [decode, if_neg h]

set_option maxRecDepth 4000 in
/-- A cycle request decodes. -/
theorem decode_runCycle (op : Op) (t : BitVec 64) (rest : List Word) :
    decode (encode (.runCycle op t) ++ rest) = .ok (.runCycle op t, rest) :=
  decode_call (by decide) rfl (((reads_nat op).pair (reads_bits t)).map fun x => Instr.runCycle x.1 x.2) rest

end Sys2Proof
end

