-- ==== Sys2Proof/Laws/Encoder.lean ====
section
/-! SUPPORT. The laws of the request encoder: everything building a frame and queueing an item does. -/
namespace Sys2Proof.Machine

open Sys2Proof.Safety

theorem requestWords_length (a f : Byte) (p : List Byte) : (requestWords a f p).length = p.length + 4 := by
  simp [requestWords]

theorem requestWords_isTxd {a f : Byte} {p : List Byte} {w : Word} (h : w ∈ requestWords a f p) :
    isTxd w = true := by
  simp only [requestWords, List.mem_append, List.mem_map, List.mem_cons, List.not_mem_nil, or_false] at h
  rcases h with ⟨b, -, rfl⟩ | rfl | rfl <;> exact isTxd_txdWord _

/-- The words appended to an empty buffer are its whole content. -/
theorem holdsExactly_of_appended {s t : State} {ws : List Word} (h : Appended (resetBuffer s) t ws) :
    HoldsExactly t ws := by
  refine ⟨by rw [h.cursor]; exact Nat.zero_add _, by rw [h.length]; exact Nat.zero_add _, fun a => ?_⟩
  rw [h.memory, show (resetBuffer s).idx = 0 from rfl, if_neg (Nat.not_lt_zero _)]
  rfl

theorem appended_append {s t u : State} {us vs : List Word} (h1 : Appended s t us)
    (h2 : Appended t u vs) : Appended s u (us ++ vs) := by
  refine ⟨by rw [h2.cursor, h1.cursor]; simp; omega, by rw [h2.length, h1.cursor]; simp; omega, fun a => ?_, ?_⟩
  · rw [h2.memory, h1.memory, h1.cursor]
    by_cases h : a < s.idx
    · rw [if_pos (by omega), if_pos h, if_pos h]
    · rw [if_neg h, if_neg h]
      by_cases h' : a < s.idx + us.length
      · rw [if_pos h', List.getElem?_append_left (by omega)]
      · rw [if_neg h', List.getElem?_append_right (by omega)]
        congr 1; omega
  · have f1 := h1.frame
    have f2 := h2.frame
    rw [f2, f1]

/-- Everything building a request frame can do. -/
theorem buildRequest_cases (a f : Byte) (p : List Byte) (s : State) :
    (p.length + 4 ≤ s.capacity ∧ ∃ t, buildRequest a f p s = .ok (requestWords a f p, t) ∧
      HoldsExactly t (requestWords a f p) ∧ t = { s with buf := t.buf, idx := t.idx, len := t.len } ∧
      t.buf.wf = true) ∨
    (s.capacity < p.length + 4 ∧ buildRequest a f p s = .error .bufferOverflow) := by
  have hne : (a :: f :: p).map txdWord ≠ [] := by simp
  have hlen : ((a :: f :: p).map txdWord).length = p.length + 2 := by simp
  rcases putWords_cases _ (s := resetBuffer s) hne with ⟨hr, t, ht, ha, hw⟩ | ⟨hr, ht⟩
  · rw [hlen] at hr
    have hi : t.idx = p.length + 2 := by rw [ha.cursor, hlen]; exact Nat.zero_add _
    have hl : t.len = p.length + 2 := by rw [ha.length, hlen]; exact Nat.zero_add _
    have hcap : t.capacity = s.capacity := by rw [appended_capacity ha]; rfl
    have hspan : AtIndex t (t.idx - (a :: f :: p).length) ((a :: f :: p).map txdWord) := by
      have h0 : t.idx - (a :: f :: p).length = 0 := by rw [hi]; simp
      intro j hj
      rw [h0, Nat.zero_add, wordAt, if_pos (by rw [hl]; omega), ha.memory,
        show (resetBuffer s).idx = 0 from rfl, if_neg (Nat.not_lt_zero _)]
      rfl
    have hcrc := writeCRC_eq (by rw [hi]; simp) hspan
    have hcount : (a :: f :: p).length = 2 + p.length := by simp; omega
    rw [hcount] at hcrc
    rcases putWords_cases [txdWord ((crc16 (a :: f :: p)).extractLsb' 0 8),
        txdWord ((crc16 (a :: f :: p)).extractLsb' 8 8)] (s := t) (by simp) with ⟨hr2, u, hu, ha2, hw2⟩ | ⟨hr2, hu⟩
    · simp only [List.length_cons, List.length_nil] at hr2
      have hap := appended_append ha ha2
      have hh := holdsExactly_of_appended hap
      refine .inl ⟨by omega, u, ?_, hh, ?_, hw2 (hw rfl)⟩
      · have hread : wordsAt u 0 u.len = some (requestWords a f p) := by
          rw [hh.length]
          refine wordsAt_ok _ fun j hj => ?_
          rw [Nat.zero_add, wordAt, if_pos (by rw [hh.length]; exact hj), hh.memory]
        simp only [buildRequest, putBytes, ht, hcrc, hu, hread]
      · have := hap.frame
        rw [this]; rfl
    · simp only [List.length_cons, List.length_nil] at hr2
      exact .inr ⟨by omega, by simp only [buildRequest, putBytes, ht, hcrc, hu]⟩
  · have hr' : s.capacity < (resetBuffer s).idx + ((a :: f :: p).map txdWord).length := hr
    rw [hlen] at hr'
    have : (resetBuffer s).idx = 0 := rfl
    exact .inr ⟨by omega, by simp only [buildRequest, putBytes, ht]⟩

theorem buildRequest_ok {a f : Byte} {p : List Byte} {s : State} (h : p.length + 4 ≤ s.capacity) :
    ∃ t, buildRequest a f p s = .ok (requestWords a f p, t) ∧ HoldsExactly t (requestWords a f p) ∧
      t = { s with buf := t.buf, idx := t.idx, len := t.len } ∧ t.buf.wf = true := by
  rcases buildRequest_cases a f p s with ⟨-, h⟩ | ⟨h', -⟩
  · exact h
  · omega

/-- Queueing an item after its frame was built. -/
theorem queued_appendItem {s t : State} {op : Op} {it : Item} {ctr : BitVec 4} (hh : HoldsExactly t it.words)
    (hf : t = { s with buf := t.buf, idx := t.idx, len := t.len }) :
    Queued s { appendItem op it t with bcastCtr := ctr } op it ctr := by
  have hb : t.busLists = s.busLists := by rw [hf]
  have hl : ∀ o, busList o t = busList o s := fun o => by simp [busList, hb]
  refine ⟨?_, fun op' h => ?_, ⟨hh.cursor, hh.length, hh.memory⟩, ?_⟩
  · show busList op (setBusList op (busList op t ++ [it]) t) = _
    rw [busList_setBusList_self, hl]
  · show busList op' (setBusList op (busList op t ++ [it]) t) = _
    rw [busList_setBusList_other _ _ h, hl]
  · rw [hf]; rfl

/-- A unicast append to a mapped address with room. -/
theorem appendUnicast_ok {expects : Bool} {op : Op} {sub : Int} {a f : Byte} {p : List Byte} {c : ILCMap}
    {s : State} (hc : lookup sub a s = .channel c) (h : p.length + 4 ≤ s.capacity) :
    ∃ t, appendUnicast expects op sub a f p s = .ok t ∧
      Queued s t op ⟨sub, a, f, false, expects, some c, requestWords a f p⟩ s.bcastCtr := by
  obtain ⟨t, ht, hh, hf, -⟩ := buildRequest_ok (a := a) (f := f) h
  refine ⟨appendItem op ⟨sub, a, f, false, expects, some c, requestWords a f p⟩ t,
    by simp only [appendUnicast, hc, ht], ?_⟩
  obtain ⟨h1, h2, h3, h4⟩ := queued_appendItem (op := op) (ctr := s.bcastCtr)
    (it := ⟨sub, a, f, false, expects, some c, requestWords a f p⟩) hh hf
  have hb : t.bcastCtr = s.bcastCtr := by rw [hf]
  refine ⟨h1, h2, ⟨hh.cursor, hh.length, hh.memory⟩, ?_⟩
  show appendItem op _ t = _
  rw [hf]; rfl

theorem appendUnicast_unmapped {expects : Bool} {op : Op} {sub : Int} {a f : Byte} {p : List Byte} {s : State}
    (hc : ∀ c, lookup sub a s ≠ .channel c) : appendUnicast expects op sub a f p s = .error .unmappedRequest := by
  unfold appendUnicast
  cases h : lookup sub a s with
  | channel c => exact absurd h (hc c)
  | invalid => rfl
  | unknownSubnet => rfl

theorem appendBroadcast_ok {op : Op} {sub : Int} {a f : Byte} {p : List Byte} {s : State} (ha : a = 248#8 ∨ a = 249#8)
    (h : (embedCounter s.params.bcastField p s.bcastCtr).length + 4 ≤ s.capacity) :
    ∃ t, appendBroadcast op sub a f p s = .ok t ∧
      Queued s t op ⟨sub, a, f, true, false, none,
        requestWords a f (embedCounter s.params.bcastField p s.bcastCtr)⟩ (s.bcastCtr + 1#4) := by
  obtain ⟨t, ht, hh, hf, -⟩ := buildRequest_ok (a := a) (f := f) h
  refine ⟨{ appendItem op ⟨sub, a, f, true, false, none,
      requestWords a f (embedCounter s.params.bcastField p s.bcastCtr)⟩ t with bcastCtr := t.bcastCtr + 1 },
    by rw [appendBroadcast, if_pos ha, ht], ?_⟩
  have hb : t.bcastCtr = s.bcastCtr := by rw [hf]
  simp only [hb]
  exact queued_appendItem (op := op) (ctr := s.bcastCtr + 1#4)
    (it := ⟨sub, a, f, true, false, none, requestWords a f (embedCounter s.params.bcastField p s.bcastCtr)⟩) hh hf

end Sys2Proof.Machine
end

