-- ==== Sys2Proof/Laws/Handlers.lean ====
section
/-! SUPPORT. The laws of the handlers: what each reads, and what a handler can change. -/
namespace Sys2Proof.Machine

open Sys2Proof.Safety

/-- `t` is `s` after a handler that read `k` words: the cursor moved, reports that are no warnings were added, and
besides only the check flags, in arrays of the same length, may have changed. -/
structure HandledBy (s t : State) (k : Nat) : Prop where
  cursor : t.idx = s.idx + k
  reports : ∃ new, t.out = s.out ++ new ∧ ∀ e ∈ new, isWarning e = false ∧ ∀ b, e ≠ .ilcCommunicationTimeout b
  flags : t.limitFlag.length = s.limitFlag.length ∧ t.feFlag.length = s.feFlag.length
  frame : t = { s with idx := t.idx, out := t.out, limitFlag := t.limitFlag, feFlag := t.feFlag }

theorem handledBy_move (s : State) (k : Nat) : HandledBy s { s with idx := s.idx + k } k :=
  ⟨rfl, ⟨[], (List.append_nil _).symm, fun e he => by cases he⟩, ⟨rfl, rfl⟩, rfl⟩

theorem handledBy_emit {s t : State} {k : Nat} {e : Event} (h : HandledBy s t k) (he : isWarning e = false)
    (hc : ∀ b, e ≠ .ilcCommunicationTimeout b) : HandledBy s (t.emit e) k := by
  obtain ⟨new, hn, hw⟩ := h.reports
  refine ⟨h.cursor, ⟨new ++ [e], ?_, fun x hx => ?_⟩, h.flags, ?_⟩
  · show t.out ++ [e] = _
    rw [hn, List.append_assoc]
  · rcases List.mem_append.1 hx with hx | hx
    · exact hw x hx
    · rw [List.mem_singleton.1 hx]; exact ⟨he, hc⟩
  · have := h.frame
    show { t with out := t.out ++ [e] } = _
    rw [this]; rfl

theorem setFlagsAt_length (l : List AxisFlags) (i : Int) (f : AxisFlags) : (setFlagsAt l i f).length = l.length := by
  unfold setFlagsAt; split <;> simp

/-- An index outside the array changes no flag (log 20). -/
theorem setFlagsAt_outside (l : List AxisFlags) (i : Int) (f : AxisFlags) (h : i < 0 ∨ (l.length : Int) ≤ i) :
    setFlagsAt l i f = l := by
  unfold setFlagsAt
  split
  · exact List.set_eq_of_length_le (by omega)
  · rfl

/-- Checks (a) and (b) change flags and add reports, no more. -/
theorem checkForces_handled {s t : State} {k : Nat} (h : HandledBy s t k) (ch : ILCMap) (p : F32) (q : Option F32) :
    HandledBy s (checkForces ch p q t) k := by
  have h1 : ∀ l l' : List AxisFlags, l.length = t.limitFlag.length → l'.length = t.feFlag.length →
      HandledBy s { t with limitFlag := l, feFlag := l' } k := fun l l' e e' =>
    ⟨h.cursor, h.reports, ⟨e.trans h.flags.1, e'.trans h.flags.2⟩, by have := h.frame; rw [this]⟩
  have h2 := h1 _ _ (setFlagsAt_length t.limitFlag ch.dataIndex
      (newFlags (flagsAt t.limitFlag ch.dataIndex) (fun a x => beyondLimit ch a x t) p q))
    (setFlagsAt_length t.feFlag ch.dataIndex
      (newFlags (flagsAt t.feFlag ch.dataIndex) (fun a x => followingError ch a x t) p q))
  unfold checkForces
  refine handledBy_emit ?_ rfl (fun b h => by cases h)
  split
  · exact h2
  · exact handledBy_emit h2 rfl (fun b h => by cases h)

/-- Check (c) adds its two reports, no more. -/
theorem checkLoadCell_handled {s t : State} {k : Nat} (h : HandledBy s t k) (ch : ILCMap) (p : F32) :
    HandledBy s (checkLoadCell ch p t) k := by
  unfold checkLoadCell
  exact handledBy_emit (handledBy_emit h rfl (fun b h => by cases h)) rfl (fun b h => by cases h)

/-- Check (d) adds its report, no more. -/
theorem checkAirPressure_handled {s t : State} {k : Nat} (h : HandledBy s t k) (ch : ILCMap) (p : F32) :
    HandledBy s (checkAirPressure ch p t) k := by
  unfold checkAirPressure
  exact handledBy_emit h rfl (fun b h => by cases h)

/-! ### What each reader reads -/

section
variable {f : Routed} {s : State}

theorem readRaw_ok (ws : List Word) (h : AtCursor s ws) (hk : ws.length = f.k) :
    readRaw f s = .ok (.raw (ws.map byteOf), { s with idx := s.idx + f.k }) := by
  rw [← hk]; simp [readRaw, ← hk, getBytes_ok ws h]

theorem readServerID_ok (ws : List Word) (h : AtCursor s ws) (hk : ws.length = f.k) :
    readServerID f s = .ok (.serverID (ws.map byteOf), { s with idx := s.idx + f.k }) := by
  rw [← hk]; simp [readServerID, ← hk, getBytes_ok ws h]

theorem readMode_ok (ws : List Word) (h : AtCursor s ws) (hk : ws.length = f.k) :
    readMode f s = .ok (.mode (be (ws.map byteOf)), { s with idx := s.idx + f.k }) := by
  rw [← hk]; simp [readMode, ← hk, readUnsigned_ok ws h]

theorem readStatusBits_ok (ws : List Word) (h : AtCursor s ws) (hk : ws.length = f.k) :
    readStatusBits f s = .ok (.statusBits (be (ws.map byteOf)), { s with idx := s.idx + f.k }) := by
  rw [← hk]; simp [readStatusBits, ← hk, readUnsigned_ok ws h]

/-- The status word of `f.k - 4` bytes, then two of two bytes. -/
theorem readServerStatus_ok (us : List Word) {a b c d : Word} (h : AtCursor s (us ++ [a, b, c, d]))
    (hk : f.k = us.length + 4) (h56 : f.k = 6 ∨ f.k = 5) :
    readServerStatus f s = .ok (.serverStatus (be (us.map byteOf)) (be [byteOf a, byteOf b])
      (be [byteOf c, byteOf d]), { s with idx := s.idx + f.k }) := by
  obtain ⟨h1, h2⟩ := atCursor_append h
  obtain ⟨h3, h4⟩ := atCursor_append (us := [a, b]) (vs := [c, d]) h2
  have r1 := readUnsigned_ok us h1
  have r2 := readUnsigned_ok _ h3
  have r3 := readUnsigned_ok _ h4
  simp only [List.length_cons, List.length_nil, List.map_cons, List.map_nil] at r2 r3
  rw [readServerStatus, if_pos h56, show f.k - 4 = us.length by omega, r1]
  simp only [r2, r3]
  congr 3
  omega

theorem readGains_ok {a b c d a' b' c' d' : Word} (h : AtCursor s [a, b, c, d, a', b', c', d']) :
    readGains f s = .ok (.gains (floatOf s.params.floatOrder [byteOf a, byteOf b, byteOf c, byteOf d])
      (floatOf s.params.floatOrder [byteOf a', byteOf b', byteOf c', byteOf d']), { s with idx := s.idx + 8 }) := by
  obtain ⟨h1, h2⟩ := atCursor_append (us := [a, b, c, d]) (vs := [a', b', c', d']) h
  simp only [readGains, readFloat_ok h1]
  have := readFloat_ok h2
  simp only [List.length_cons, List.length_nil] at this
  simp only [this]

theorem readLvdt_ok {a b c d a' b' c' d' : Word} (h : AtCursor s [a, b, c, d, a', b', c', d']) :
    readLvdt f s = .ok (.lvdt (floatOf s.params.floatOrder [byteOf a, byteOf b, byteOf c, byteOf d])
      (floatOf s.params.floatOrder [byteOf a', byteOf b', byteOf c', byteOf d']), { s with idx := s.idx + 8 }) := by
  obtain ⟨h1, h2⟩ := atCursor_append (us := [a, b, c, d]) (vs := [a', b', c', d']) h
  simp only [readLvdt, readFloat_ok h1]
  have := readFloat_ok h2
  simp only [List.length_cons, List.length_nil] at this
  simp only [this]

theorem readCalibration_ok (ws : List Word) (h : AtCursor s ws) (hk : ws.length = 96) :
    readCalibration f s =
      .ok (.calibration (floatsOf s.params.floatOrder (ws.map byteOf) 24), { s with idx := s.idx + 96 }) := by
  rw [readCalibration, readFloats_ok 24 ws (by omega) h]

theorem readPressure_ok (ws : List Word) (h : AtCursor s ws) (hk : ws.length = 16) :
    readPressure f s =
      .ok (.pressure (floatsOf s.params.floatOrder (ws.map byteOf) 4), { s with idx := s.idx + 16 }) := by
  rw [readPressure, readFloats_ok 4 ws (by omega) h]

theorem readPressureChecked_ok (ws : List Word) (h : AtCursor s ws) (hk : ws.length = 16) :
    readPressureChecked f s =
      .ok (.pressure (floatsOf s.params.floatOrder (ws.map byteOf) 4),
        checkAirPressure f.ch ((floatsOf s.params.floatOrder (ws.map byteOf) 4).getD s.params.airpIndex.val 0#32)
          { s with idx := s.idx + 16 }) := by
  rw [readPressureChecked, readFloats_ok 4 ws (by omega) h]

theorem readElectromechanical_ok {w0 w1 w2 w3 w4 w5 w6 w7 w8 : Word}
    (h : AtCursor s [w0, w1, w2, w3, w4, w5, w6, w7, w8]) :
    let encoder : Int := -(byteOf w1 ++ byteOf w2 ++ byteOf w3 ++ byteOf w4).toInt
    let force := negateFloat (floatOf s.params.floatOrder [byteOf w5, byteOf w6, byteOf w7, byteOf w8])
    readElectromechanical f s =
      .ok (.electromechanical (byteOf w0).toNat encoder force (displacement encoder s),
        checkLoadCell f.ch force { s with idx := s.idx + 9 }) := by
  obtain ⟨h1, h2⟩ := atCursor_append (us := [w0]) (vs := [w1, w2, w3, w4, w5, w6, w7, w8]) h
  obtain ⟨h3, h4⟩ := atCursor_append (us := [w1, w2, w3, w4]) (vs := [w5, w6, w7, w8]) h2
  have r1 := readUnsigned_ok _ h1
  have r2 := readSigned_ok _ h3
  have r3 := readFloat_ok h4
  simp only [List.length_cons, List.length_nil, List.map_cons, List.map_nil, be_four] at r1 r2 r3
  rw [sext_toNat] at r2
  have e : be [byteOf w0] = (byteOf w0).toNat := by simp [be]
  rw [e] at r1
  simp only [readElectromechanical, r1, r2, r3]
  rfl

theorem readForces_single {w0 w1 w2 w3 w4 : Word} (h : AtCursor s [w0, w1, w2, w3, w4])
    (ha : f.addr.toNat ≤ 16) :
    let primary := floatOf s.params.floatOrder [byteOf w1, byteOf w2, byteOf w3, byteOf w4]
    readForces f s = .ok (forceFields f.ch (byteOf w0).toNat primary none,
      checkForces f.ch primary none { s with idx := s.idx + 5 }) := by
  obtain ⟨h1, h2⟩ := atCursor_append (us := [w0]) (vs := [w1, w2, w3, w4]) h
  have r1 := readUnsigned_ok _ h1
  have r2 := readFloat_ok h2
  simp only [List.length_cons, List.length_nil, List.map_cons, List.map_nil] at r1 r2
  have e : be [byteOf w0] = (byteOf w0).toNat := by simp [be]
  rw [e] at r1
  have hs : singleAxis f.addr = true := by simpa [singleAxis] using ha
  simp only [readForces, r1, r2, hs, if_true]

theorem readForces_dual {w0 w1 w2 w3 w4 w5 w6 w7 w8 : Word}
    (h : AtCursor s [w0, w1, w2, w3, w4, w5, w6, w7, w8]) (ha : 17 ≤ f.addr.toNat) :
    let primary := floatOf s.params.floatOrder [byteOf w1, byteOf w2, byteOf w3, byteOf w4]
    let secondary := floatOf s.params.floatOrder [byteOf w5, byteOf w6, byteOf w7, byteOf w8]
    readForces f s = .ok (forceFields f.ch (byteOf w0).toNat primary (some secondary),
      checkForces f.ch primary (some secondary) { s with idx := s.idx + 9 }) := by
  obtain ⟨h1, h2⟩ := atCursor_append (us := [w0]) (vs := [w1, w2, w3, w4, w5, w6, w7, w8]) h
  obtain ⟨h3, h4⟩ := atCursor_append (us := [w1, w2, w3, w4]) (vs := [w5, w6, w7, w8]) h2
  have r1 := readUnsigned_ok _ h1
  have r2 := readFloat_ok h3
  have r3 := readFloat_ok h4
  simp only [List.length_cons, List.length_nil, List.map_cons, List.map_nil] at r1 r2 r3
  have e : be [byteOf w0] = (byteOf w0).toNat := by simp [be]
  rw [e] at r1
  have hs : singleAxis f.addr = false := by simp only [singleAxis, decide_eq_false_iff_not]; omega
  simp only [readForces, r1, r2, r3, hs, Bool.false_eq_true, if_false]

end

/-- The handlers of success codes read exactly the payload and answer. -/
theorem handlerOf_answers {f : Routed} {s : State} {fn : Nat} (hfn : fn ∈ successSet f.ch.deviceType)
    (hk : f.k = respLen s.params fn f.addr) {ws : List Word} (h : AtCursor s ws) (hl : ws.length = f.k) :
    ∃ fields t, handlerOf f.ch.deviceType fn f s = .ok (fields, t) ∧ HandledBy s t f.k := by
  have raw : ∃ fields t, readRaw f s = .ok (fields, t) ∧ HandledBy s t f.k :=
    ⟨_, _, readRaw_ok ws h hl, handledBy_move s f.k⟩
  unfold handlerOf
  split
  · exact ⟨_, _, readServerID_ok ws h hl, handledBy_move s f.k⟩
  split
  · by_cases h56 : f.k = 6 ∨ f.k = 5
    · have hw : ws = ws.take (f.k - 4) ++ ws.drop (f.k - 4) := (List.take_append_drop _ _).symm
      have hd : (ws.drop (f.k - 4)).length = 4 := by rw [List.length_drop]; omega
      match hm : ws.drop (f.k - 4), hd with
      | [a, b, c, d], _ =>
        rw [hm] at hw
        rw [hw] at h
        exact ⟨_, _, readServerStatus_ok _ h (by rw [List.length_take]; omega) h56, handledBy_move s f.k⟩
    · rw [readServerStatus, if_neg h56]; exact raw
  split
  · exact ⟨_, _, readMode_ok ws h hl, handledBy_move s f.k⟩
  split
  · subst fn
    have h8 : f.k = 8 := hk
    rw [h8] at hl ⊢
    match ws, hl with
    | [a, b, c, d, a', b', c', d'], _ => exact ⟨_, _, readGains_ok h, handledBy_move s 8⟩
  split
  · rename_i h75
    have hr : f.k = if singleAxis f.addr then 5 else 9 := by
      rcases h75 with rfl | rfl <;> exact hk
    by_cases ha : f.addr.toNat ≤ 16
    · rw [if_pos (by simpa [singleAxis] using ha)] at hr
      rw [hr] at hl ⊢
      match ws, hl with
      | [a, b, c, d, e], _ =>
        exact ⟨_, _, readForces_single h ha, checkForces_handled (handledBy_move s 5) _ _ _⟩
    · rw [if_neg (by simpa [singleAxis] using ha)] at hr
      rw [hr] at hl ⊢
      match ws, hl with
      | [a, b, c, d, e, a', b', c', d'], _ =>
        exact ⟨_, _, readForces_dual h (by omega), checkForces_handled (handledBy_move s 9) _ _ _⟩
  split
  · subst fn
    have h96 : f.k = 96 := hk
    rw [h96] at hl ⊢
    exact ⟨_, _, readCalibration_ok ws h hl, handledBy_move s 96⟩
  split
  · subst fn
    have h16 : f.k = 16 := hk
    rw [h16] at hl ⊢
    split
    · exact ⟨_, _, readPressureChecked_ok ws h hl, checkAirPressure_handled (handledBy_move s 16) _ _⟩
    · exact ⟨_, _, readPressure_ok ws h hl, handledBy_move s 16⟩
  split
  · exact ⟨_, _, readStatusBits_ok ws h hl, handledBy_move s f.k⟩
  split
  · rename_i h66
    have h9 : f.k = 9 := by rcases h66 with rfl | rfl <;> exact hk
    rw [h9] at hl ⊢
    match ws, hl with
    | [a, b, c, d, e, a', b', c', d'], _ =>
      exact ⟨_, _, readElectromechanical_ok h, checkLoadCell_handled (handledBy_move s 9) _ _⟩
  split
  · subst fn
    have h8 : f.k = 8 := hk
    rw [h8] at hl ⊢
    match ws, hl with
    | [a, b, c, d, a', b', c', d'], _ => exact ⟨_, _, readLvdt_ok h, handledBy_move s 8⟩
  · exact raw

/-- `t` is `s` after a frame was dispatched: the cursor moved by at most `k`, at most one warning and some reports
were added, and besides only the warning record and the check flags may have changed. -/
structure DispatchedBy (s t : State) (k : Nat) : Prop where
  cursor : s.idx ≤ t.idx ∧ t.idx ≤ s.idx + k
  reports : ∃ new, t.out = s.out ++ new ∧ (new.filter isWarning).length ≤ 1 ∧
    ∀ e ∈ new, ∀ b, e ≠ .ilcCommunicationTimeout b
  flags : t.limitFlag.length = s.limitFlag.length ∧ t.feFlag.length = s.feFlag.length
  frame : t = { s with
    idx := t.idx, out := t.out, warnRec := t.warnRec, limitFlag := t.limitFlag, feFlag := t.feFlag }

theorem dispatchedBy_raise (k : WarnKind) (aid : Int) (s : State) (m n : Nat) (h : m ≤ n) :
    DispatchedBy s (raise k aid { s with idx := s.idx + m }) n :=
  ⟨⟨Nat.le_add_right _ _, Nat.add_le_add_left h _⟩, ⟨[_], rfl, Nat.le_refl 1, fun e he b => by
    rw [List.mem_singleton.1 he]; exact fun h => by cases h⟩, ⟨rfl, rfl⟩, rfl⟩

theorem dispatchedBy_record {s t : State} {k : Nat} (h : HandledBy s t k) (r : FrameRecord) :
    DispatchedBy s (t.emit (.frame r)) k := by
  have h' := handledBy_emit (e := .frame r) h rfl (fun b h => by cases h)
  obtain ⟨new, hn, hw⟩ := h'.reports
  refine ⟨by have := h'.cursor; omega, ⟨new, hn, ?_, fun e he => (hw e he).2⟩, h'.flags, ?_⟩
  · rw [List.filter_eq_nil_iff.2 fun e he => by simp [(hw e he).1]]
    simp
  · have := h'.frame
    have hr : (t.emit (.frame r)).warnRec = s.warnRec := by rw [this]
    rw [hr]; exact this

/-- Everything a dispatch can do when the payload stands in the buffer. -/
theorem dispatchFrame_answers (f : Routed) (fn : Byte) {s : State} {ws : List Word} (h : AtCursor s ws)
    (hl : ws.length = f.k) : ∃ t, dispatchFrame f fn s = .ok t ∧ DispatchedBy s t f.k := by
  unfold dispatchFrame
  split
  · unfold respond
    split
    · obtain ⟨fields, t, ht, hh⟩ := handlerOf_answers ‹_› ‹_› h hl
      exact ⟨_, by rw [ht], dispatchedBy_record hh _⟩
    · exact ⟨_, rfl, dispatchedBy_raise _ _ s 0 _ (Nat.zero_le _)⟩
  · split
    · unfold respondException
      split
      · rename_i hk
        rw [hk] at hl
        match ws, hl with
        | [w], _ =>
          have h0 : wordAt s s.idx = some w := by simpa using h 0 (by simp)
          exact ⟨_, by rw [getByte_ok h0], dispatchedBy_raise _ _ s 1 _ (by omega)⟩
      · exact ⟨_, rfl, dispatchedBy_raise _ _ s 0 _ (Nat.zero_le _)⟩
    · exact ⟨_, rfl, dispatchedBy_raise _ _ s 0 _ (Nat.zero_le _)⟩

end Sys2Proof.Machine
end

