-- ==== Sys2Proof/Laws/Validator.lean ====
section
/-! SUPPORT. The laws of the validator: where it finds the tail, and what decoding a frame and a buffer can change. -/
namespace Sys2Proof.Machine

open Sys2Proof.Safety

/-- Where the scan for the tail stops. -/
theorem findTail_spec (s : State) (fuel j : Nat) :
    j ≤ findTail s fuel j ∧ findTail s fuel j ≤ j + fuel ∧
      (∀ i, j ≤ i → i < findTail s fuel j → classAt s i .ts = false ∧ classAt s i .eofw = false) ∧
      (findTail s fuel j < j + fuel →
        classAt s (findTail s fuel j) .ts = true ∨ classAt s (findTail s fuel j) .eofw = true) := by
  induction fuel generalizing j with
  | zero => exact ⟨Nat.le_refl _, Nat.le_refl _, fun i h1 h2 => by simp [findTail] at h2; omega, fun h => by
      simp [findTail] at h⟩
  | succ fuel ih =>
    rw [findTail]
    split
    · rename_i h
      exact ⟨Nat.le_refl _, by omega, fun i h1 h2 => by omega, fun _ => by simpa using h⟩
    · rename_i h
      obtain ⟨h1, h2, h3, h4⟩ := ih (j + 1)
      refine ⟨by omega, by omega, fun i hi hlt => ?_, fun h => h4 (by omega)⟩
      by_cases hij : i = j
      · subst i; simpa using h
      · exact h3 i (by omega) hlt

theorem classAt_lt {s : State} {i : Nat} {c : WordClass} (h : classAt s i c = true) : i < s.len := by
  unfold classAt wordAt at h
  by_contra hc
  simp [hc] at h

/-- A word has one class. -/
theorem classAt_other {s : State} {i : Nat} {c d : WordClass} (h : classAt s i c = true) (hd : d ≠ c) :
    classAt s i d = false := by
  unfold classAt at h ⊢
  split at h
  · rw [decide_eq_true_eq] at h
    rw [h]; simpa using fun e => hd e.symm
  · cases h

/-- The tail behind `n` data words. -/
theorem locateTail_eq {s : State} {n : Nat} (hd : ∀ j, j < n → classAt s (s.idx + j) .data = true)
    (ht : s.idx + n = s.len ∨ classAt s (s.idx + n) .eofw = true ∨ classAt s (s.idx + n) .ts = true) :
    locateTail s = { s with fs := s.idx, tail := s.idx + n, n := n } := by
  obtain ⟨h1, h2, h3, h4⟩ := findTail_spec s (s.len - s.idx) s.idx
  have hle : s.idx + n ≤ s.len := by
    rcases ht with h | h | h
    · omega
    · exact Nat.le_of_lt (classAt_lt h)
    · exact Nat.le_of_lt (classAt_lt h)
  have he : findTail s (s.len - s.idx) s.idx = s.idx + n := by
    rcases Nat.lt_trichotomy (findTail s (s.len - s.idx) s.idx) (s.idx + n) with h | h | h
    · have hd' := hd (findTail s (s.len - s.idx) s.idx - s.idx) (by omega)
      rw [show s.idx + (findTail s (s.len - s.idx) s.idx - s.idx) = findTail s (s.len - s.idx) s.idx by omega] at hd'
      rcases h4 (by omega) with h4 | h4
      · rw [classAt_other hd' (by decide)] at h4; cases h4
      · rw [classAt_other hd' (by decide)] at h4; cases h4
    · exact h
    · obtain ⟨a, b⟩ := h3 (s.idx + n) (by omega) h
      rcases ht with h | h | h
      · omega
      · rw [b] at h; cases h
      · rw [a] at h; cases h
  unfold locateTail
  rw [he]
  simp only [Nat.add_sub_cancel_left]

/-- `t` is `s` after decoding: the working registers, the counters, the cursor, the check flags and the warning record
may have changed, reports and at most `w` warnings were added, and nothing else. -/
structure DecodedBy (s t : State) (w : Nat) : Prop where
  reports : ∃ new, t.out = s.out ++ new ∧ (new.filter isWarning).length ≤ w ∧
    ∀ e ∈ new, ∀ b, e ≠ .ilcCommunicationTimeout b
  flags : t.limitFlag.length = s.limitFlag.length ∧ t.feFlag.length = s.feFlag.length
  counters : ∀ dt, (t.exp dt).length = (s.exp dt).length
  frame : t = { s with
    idx := t.idx, faExp := t.faExp, haExp := t.haExp, hmExp := t.hmExp, fs := t.fs, tail := t.tail, n := t.n
    crcCalc := t.crcCalc, crcRx := t.crcRx, ts := t.ts, addr := t.addr, fn := t.fn, ch := t.ch
    warnRec := t.warnRec, limitFlag := t.limitFlag, feFlag := t.feFlag, out := t.out }

theorem DecodedBy.buf {s t : State} {w : Nat} (h : DecodedBy s t w) : t.buf = s.buf := by rw [h.frame]

theorem DecodedBy.len {s t : State} {w : Nat} (h : DecodedBy s t w) : t.len = s.len := by rw [h.frame]

theorem DecodedBy.capacity {s t : State} {w : Nat} (h : DecodedBy s t w) : t.capacity = s.capacity := by rw [h.frame]

theorem DecodedBy.trans {s t u : State} {v w : Nat} (h : DecodedBy s t v) (g : DecodedBy t u w) :
    DecodedBy s u (v + w) := by
  obtain ⟨e, he, hw, hc⟩ := h.reports
  obtain ⟨e', he', hw', hc'⟩ := g.reports
  refine ⟨⟨e ++ e', by rw [he', he, List.append_assoc], ?_, fun x hx => ?_⟩,
    ⟨g.flags.1.trans h.flags.1, g.flags.2.trans h.flags.2⟩, fun dt => (g.counters dt).trans (h.counters dt), ?_⟩
  · rw [List.filter_append, List.length_append]; omega
  · rcases List.mem_append.1 hx with hx | hx
    · exact hc x hx
    · exact hc' x hx
  · have hs := h.frame
    have ht := g.frame
    rw [ht]
    rw [hs]

/-- Writing the cursor and the working registers. -/
theorem decodedBy_registers {s t : State} (h : t = { s with
    idx := t.idx, fs := t.fs, tail := t.tail, n := t.n, crcCalc := t.crcCalc, crcRx := t.crcRx, ts := t.ts
    addr := t.addr, fn := t.fn, ch := t.ch }) : DecodedBy s t 0 := by
  refine ⟨⟨[], ?_, Nat.le_refl 0, fun e he => by cases he⟩, ⟨?_, ?_⟩, fun dt => ?_, ?_⟩
  · rw [h, List.append_nil]
  · rw [h]
  · rw [h]
  · rw [h]; cases dt <;> rfl
  · rw [h]

theorem decodedBy_raise (k : WarnKind) (aid : Int) (s : State) : DecodedBy s (raise k aid s) 1 :=
  ⟨⟨[_], rfl, Nat.le_refl 1, fun e he b => by rw [List.mem_singleton.1 he]; exact fun h => by cases h⟩, ⟨rfl, rfl⟩,
    fun dt => by cases dt <;> rfl, rfl⟩

theorem decodedBy_skip (s : State) : DecodedBy s (skipToNextFrame s) 0 := decodedBy_registers rfl

theorem decodedBy_bump (ch : ILCMap) (d : Int) (s : State) : DecodedBy s (bumpExpected ch d s) 0 := by
  unfold bumpExpected
  refine ⟨⟨[], ?_, Nat.le_refl 0, fun e he => by cases he⟩, ?_, fun dt => ?_, ?_⟩
  · cases ch.deviceType <;> simp [State.setExp]
  · cases ch.deviceType <;> exact ⟨rfl, rfl⟩
  · cases ch.deviceType <;> cases dt <;> simp [State.setExp, State.exp]
  · cases ch.deviceType <;> rfl

theorem decodedBy_dispatch {s t : State} {k : Nat} (h : DispatchedBy s t k) : DecodedBy s t 1 := by
  refine ⟨h.reports, h.flags, fun dt => ?_, ?_⟩
  · rw [h.frame]; cases dt <;> rfl
  · have := h.frame
    rw [this]

theorem decodedBy_unverified (sub : Int) (s : State) : DecodedBy s (decrementUnverified sub s) 0 := by
  unfold decrementUnverified
  split
  · split
    · split
      · exact decodedBy_bump _ _ _
      · exact decodedBy_registers rfl
    · exact decodedBy_registers rfl
  · exact decodedBy_registers rfl

/-- A routed frame's decrement is `countedDown` (R220). -/
theorem bumpExpected_down (c : ILCMap) (s : State) : bumpExpected c (-1) s = countedDown c s := by
  unfold bumpExpected countedDown
  cases c.deviceType <;> simp only [State.setExp, State.exp, addAt_eq] <;> rfl

theorem bump_idx (ch : ILCMap) (d : Int) (s : State) : (bumpExpected ch d s).idx = s.idx := by
  unfold bumpExpected; cases ch.deviceType <;> rfl

theorem decrementUnverified_idx (sub : Int) (s : State) : (decrementUnverified sub s).idx = s.idx := by
  unfold decrementUnverified
  split
  · split
    · split
      · exact bump_idx _ _ _
      · rfl
    · rfl
  · rfl

/-- Decoding keeps a well-formed buffer, wherever it leaves the cursor up to `len`. -/
theorem DecodedBy.bufferOk {s t : State} {w : Nat} (h : DecodedBy s t w) (hb : BufferOk s) (hi : t.idx ≤ s.len) :
    BufferOk t :=
  ⟨by rw [h.buf, h.len]; exact hb.words, by rw [h.len]; exact hi, by rw [h.len, h.capacity]; exact hb.room⟩

theorem atCursor_congr {s t : State} {ws : List Word} (hb : t.buf = s.buf) (hl : t.len = s.len) {i : Nat}
    (hi : t.idx = i) (h : AtIndex s i ws) : AtCursor t ws := by
  intro j hj
  have := h j hj
  rw [wordAt] at this ⊢
  rw [hb, hl, hi]; exact this

/-- The route of a frame whose words from the cursor on, at least two and `n - 4` more, stand in the buffer: it
answers, and the cursor does not pass the payload before the final skip. -/
theorem routeFrame_answers (sub : Int) {s : State} {a f : Word} {ws : List Word} (h : AtCursor s (a :: f :: ws))
    (hn : ws.length = s.n - 4) :
    ∃ u, routeFrame sub s = .ok (skipToNextFrame u) ∧ DecodedBy s u 1 ∧ s.idx ≤ u.idx ∧
      u.idx ≤ s.idx + 2 + (s.n - 4) := by
  have h0 := (atCursor_cons h).1
  have h1 := (atCursor_cons h).2
  have h2 := (atCursor_cons h1).1
  have h3 := (atCursor_cons h1).2
  unfold routeFrame
  rw [getByte_ok h0]
  simp only [getByte_ok h2]
  have regs : ∀ c : Option ILCMap, DecodedBy s
      { s with idx := s.idx + 1 + 1, addr := byteOf a, fn := byteOf f, ch := c } 0 := fun c => decodedBy_registers rfl
  split
  · exact ⟨_, rfl, (regs s.ch).trans (decodedBy_raise _ _ _), Nat.le_add_right _ 2, Nat.le_add_right _ _⟩
  · exact ⟨_, rfl, (regs none).trans (decodedBy_raise _ _ _), Nat.le_add_right _ 2, Nat.le_add_right _ _⟩
  · rename_i ch hch
    have hb := (regs (some ch)).trans (decodedBy_bump ch (-1) _)
    have hat : AtCursor (bumpExpected ch (-1)
        { s with idx := s.idx + 1 + 1, addr := byteOf a, fn := byteOf f, ch := some ch }) ws :=
      atCursor_congr (i := s.idx + 1 + 1) hb.buf hb.len (bump_idx _ _ _) h3
    have hk : ws.length = (⟨ch, sub, (bumpExpected ch (-1)
        { s with idx := s.idx + 1 + 1, addr := byteOf a, fn := byteOf f, ch := some ch }).addr, s.n - 4, s.ts⟩ :
          Routed).k := hn
    obtain ⟨u, hu, hd⟩ := dispatchFrame_answers _ (byteOf f) hat hk
    refine ⟨u, ?_, hb.trans (decodedBy_dispatch hd), ?_, ?_⟩
    · have e1 : (bumpExpected ch (-1)
          { s with idx := s.idx + 1 + 1, addr := byteOf a, fn := byteOf f, ch := some ch }).fn = byteOf f := by
        unfold bumpExpected; cases ch.deviceType <;> rfl
      have e2 : (bumpExpected ch (-1)
          { s with idx := s.idx + 1 + 1, addr := byteOf a, fn := byteOf f, ch := some ch }).n = s.n := by
        unfold bumpExpected; cases ch.deviceType <;> rfl
      have e3 : (bumpExpected ch (-1)
          { s with idx := s.idx + 1 + 1, addr := byteOf a, fn := byteOf f, ch := some ch }).ts = s.ts := by
        unfold bumpExpected; cases ch.deviceType <;> rfl
      simp only [decrementExpected, e1, e2, e3, hu]
    · have := hd.cursor; rw [bump_idx] at this; dsimp only at this; omega
    · have := hd.cursor; rw [bump_idx] at this; dsimp only at this; omega

/-- A list of at least four words: two, the payload, two. -/
theorem four_words {ws : List Word} (h : 4 ≤ ws.length) :
    ∃ a f p lo hi, ws = a :: f :: (p ++ [lo, hi]) := by
  match ws, h with
  | a :: f :: b :: c :: ws, _ =>
    have hd : ((b :: c :: ws).drop ws.length).length = 2 := by rw [List.length_drop]; simp only [List.length_cons]; omega
    match hm : (b :: c :: ws).drop ws.length, hd with
    | [lo, hi], _ =>
      exact ⟨a, f, (b :: c :: ws).take ws.length, lo, hi, by rw [← hm, List.take_append_drop]⟩

/-- What decoding one frame can do in a well-formed buffer. -/
theorem decodeOneFrame_answers (sub : Int) {s : State} (hb : BufferOk s) :
    ∃ t, decodeOneFrame sub s = .ok t ∧ DecodedBy s t 1 ∧ t.idx = nextFrame s := by
  obtain ⟨h1, h2, h3, h4⟩ := findTail_spec s (s.len - s.idx) s.idx
  have hl := hb.cursor
  have hloc : DecodedBy s (locateTail s) 0 := decodedBy_registers rfl
  have short : ∃ t, Except.ok (ε := Fault) (endWith .invalidLength (locateTail s)) = .ok t ∧ DecodedBy s t 1 ∧
      t.idx = nextFrame s :=
    ⟨_, rfl, (hloc.trans (decodedBy_raise _ _ _)).trans (decodedBy_skip _), nextFrame_congr rfl rfl rfl⟩
  unfold decodeOneFrame
  dsimp only
  split
  · exact short
  split
  · exact short
  rename_i hstop hn
  have htl : (locateTail s).tail = findTail s (s.len - s.idx) s.idx := rfl
  have hnn : (locateTail s).n = findTail s (s.len - s.idx) s.idx - s.idx := rfl
  have hfs : (locateTail s).fs = s.idx := rfl
  have hlen : (locateTail s).len = s.len := rfl
  have hlt : findTail s (s.len - s.idx) s.idx < s.len := by
    rw [htl, hlen] at hstop
    simp only [Bool.or_eq_true, decide_eq_true_eq, not_or] at hstop
    omega
  obtain ⟨ws, hws, hat⟩ := bufferOk_atIndex hb s.idx (findTail s (s.len - s.idx) s.idx - s.idx) (by omega)
  obtain ⟨a, f, p, lo, hi, rfl⟩ := four_words (ws := ws) (by omega)
  have hlp : (locateTail s).n = p.length + 4 := by
    rw [hnn, ← hws]; simp
  have hbytes : (a :: f :: (p ++ [lo, hi])).map byteOf = (byteOf a :: byteOf f :: p.map byteOf) ++ [byteOf lo, byteOf hi] := by
    simp
  have hat' : AtIndex (locateTail s) (locateTail s).fs (a :: f :: (p ++ [lo, hi])) := hat
  have hcrc := checkFrameCRC_ok hat' hbytes
  rw [hws, ← hnn] at hcrc
  rw [hcrc]
  dsimp only
  have data : ∀ i, s.idx ≤ i → i < findTail s (s.len - s.idx) s.idx → classAt s i .eofw = false :=
    fun i hi hlt => (h3 i hi hlt).2
  split
  · generalize hu : (({ locateTail s with
      crcCalc := crc16 (byteOf a :: byteOf f :: p.map byteOf), crcRx := byteOf hi ++ byteOf lo
      ts := tsAt (locateTail s) (locateTail s).tail } : State)) = u
    have hreg : DecodedBy s u 0 := by subst hu; exact decodedBy_registers rfl
    have hui : u.idx = s.idx := by subst hu; rfl
    have hun : u.n = p.length + 4 := by subst hu; exact hlp
    have hatu : AtCursor u (a :: f :: p) := by
      refine atCursor_congr (i := s.idx) hreg.buf hreg.len hui (fun j hj => ?_)
      have hj' : j < (a :: f :: (p ++ [lo, hi])).length := by simp at hj ⊢; omega
      rw [hat j hj']
      rw [show a :: f :: (p ++ [lo, hi]) = (a :: f :: p) ++ [lo, hi] by simp]
      rw [List.getElem?_append_left hj]
    obtain ⟨v, hv, hd, hv1, hv2⟩ := routeFrame_answers sub hatu (by rw [hun]; omega)
    refine ⟨_, ?_, (hreg.trans hd).trans (decodedBy_skip _), ?_⟩
    · subst hu; exact hv
    · have hsv := hreg.trans hd
      refine nextFrame_of_later hsv.buf hsv.len (by omega) ?_ (fun i hi hlt => data i hi ?_)
      · rw [hun] at hv2; rw [hnn] at hlp; omega
      · rw [hun] at hv2; rw [hnn] at hlp; omega
  · refine ⟨_, rfl, ?_, ?_⟩
    · refine (DecodedBy.trans (v := 1) (w := 0) ?_ (decodedBy_unverified sub _)).trans (decodedBy_skip _)
      exact DecodedBy.trans (v := 0) (w := 1) (decodedBy_registers rfl) (decodedBy_raise _ _ _)
    · refine nextFrame_congr ?_ ?_ ?_
      · rw [(decodedBy_unverified sub _).buf]; rfl
      · rw [(decodedBy_unverified sub _).len]; rfl
      · rw [decrementUnverified_idx]; rfl

/-- What the loop of `decodeBuffer` can do: it answers, it is a number of `decodeFrame`, and the cursor reaches the
end. -/
theorem decodeFrames_answers (sub : Int) (fuel : Nat) {s : State} (hb : BufferOk s) (hf : s.len - s.idx ≤ fuel) :
    ∃ t w, decodeFrames sub fuel s = .ok t ∧ DecodedBy s t w ∧ t.idx = s.len ∧ ∃ k, FramesDecoded sub k s t := by
  induction fuel generalizing s with
  | zero =>
    have := hb.cursor
    exact ⟨s, 0, rfl, decodedBy_registers rfl, by omega, 0, by omega, rfl⟩
  | succ fuel ih =>
    rw [decodeFrames]
    have hc := hb.cursor
    split
    · rename_i h
      simp only [endOfBuffer, decide_eq_true_eq] at h
      exact ⟨s, 0, rfl, decodedBy_registers rfl, by omega, 0, h, rfl⟩
    · rename_i h
      simp only [endOfBuffer, decide_eq_true_eq, Nat.not_le] at h
      obtain ⟨t, ht, hd, hi⟩ := decodeOneFrame_answers sub hb
      have hn := nextFrame_bounds s hc
      have hbt := hd.bufferOk hb (by omega)
      obtain ⟨u, w, hu, hdu, hui, k, hk⟩ := ih hbt (by rw [hd.len]; omega)
      refine ⟨u, 1 + w, by rw [ht]; exact hu, hd.trans hdu, by rw [hui, hd.len], k + 1, h, t, ?_, by omega, hk⟩
      show outcome (decodeOneFrame sub s) = _
      rw [ht]; rfl

/-- What `decodeBuffer` can do with words that fit. -/
theorem decodeWholeBuffer_answers (sub : Int) {ws : List Word} {s : State} (h : ws.length ≤ s.capacity) :
    ∃ t w, decodeWholeBuffer sub ws s = .ok t ∧ t.idx = ws.length ∧
      DecodedBy { s with buf := Memory.ofWords 0 ws, len := ws.length, idx := 0 } t w ∧
      ∃ k, FramesDecoded sub k { s with buf := Memory.ofWords 0 ws, len := ws.length, idx := 0 } t := by
  obtain ⟨t, w, ht, hd, hi, hk⟩ := decodeFrames_answers sub ws.length (loaded_bufferOk h) (Nat.sub_le _ _)
  exact ⟨t, w, by rw [decodeWholeBuffer, loadBuffer_ok h]; exact ht, hi, hd, hk⟩

end Sys2Proof.Machine
end

