-- ==== Sys2Proof/Laws/Sequencer.lean ====
section
/-! SUPPORT. The laws of the sequencer: verification, issue, each phase of a cycle, and a whole cycle. -/
namespace Sys2Proof.Machine

open Sys2Proof.Safety

/-! ### Verification -/

/-- The ResponseTimeout warnings for the counters `cs`, the first of which has index `i` (R308). -/
def timeoutsFrom (dt : DeviceType) (i : Nat) (cs : List Int) (s : State) : List Event :=
  ((cs.zipIdx i).filter fun p => p.1 != 0).map fun p =>
    .warning (warning s .responseTimeout (actuatorIdOf dt p.2 s))

/-- What verification over the counters from index `i` on does, the counters before it being 0. -/
theorem verifyFrom_spec (dt : DeviceType) (cs : List Int) (i : Nat) (s : State)
    (h : s.exp dt = List.replicate i 0 ++ cs) :
    (verifyFrom dt i cs s).exp dt = List.replicate (i + cs.length) 0 ∧
      (verifyFrom dt i cs s).out = s.out ++ timeoutsFrom dt i cs s ∧
      ((verifyFrom dt i cs s).anyTimeout = true ↔ s.anyTimeout = true ∨ ∃ c ∈ cs, c ≠ 0) ∧
      ((∀ c ∈ cs, c = 0) → verifyFrom dt i cs s = s) ∧
      verifyFrom dt i cs s = { s.setExp dt ((verifyFrom dt i cs s).exp dt) with
        out := (verifyFrom dt i cs s).out, warnRec := (verifyFrom dt i cs s).warnRec
        anyTimeout := (verifyFrom dt i cs s).anyTimeout } := by
  induction cs generalizing i s with
  | nil =>
    refine ⟨by simpa [verifyFrom] using h, by simp [verifyFrom, timeoutsFrom], by simp [verifyFrom],
      fun _ => rfl, ?_⟩
    cases dt <;> rfl
  | cons c cs ih =>
    rw [verifyFrom]
    by_cases hc : c = 0
    · subst c
      rw [if_pos rfl]
      have h' : s.exp dt = List.replicate (i + 1) 0 ++ cs := by
        rw [h, List.replicate_succ', List.append_assoc]; rfl
      obtain ⟨h1, h2, h3, h4, h5⟩ := ih (i + 1) s h'
      refine ⟨?_, ?_, ?_, fun hz => h4 fun c hc => hz c (List.mem_cons_of_mem _ hc), h5⟩
      · rw [h1, List.length_cons]; congr 1; omega
      · rw [h2]; simp [timeoutsFrom, List.zipIdx_cons]
      · rw [h3]; simp
    · rw [if_neg hc]
      have he : (timeOut dt i s).exp dt = List.replicate (i + 1) 0 ++ cs := by
        have : (s.exp dt).set i 0 = List.replicate (i + 1) 0 ++ cs := by
          rw [h, List.set_append_right _ _ (by simp), List.length_replicate, Nat.sub_self, List.set_cons_zero,
            List.replicate_succ', List.append_assoc]; rfl
        rw [← this]
        cases dt <;> rfl
      obtain ⟨h1, h2, h3, -, h5⟩ := ih (i + 1) (timeOut dt i s) he
      have hout : (timeOut dt i s).out =
          s.out ++ [.warning (warning s .responseTimeout (actuatorIdOf dt i s))] := by cases dt <;> rfl
      have hmap : timeoutsFrom dt (i + 1) cs (timeOut dt i s) = timeoutsFrom dt (i + 1) cs s := by
        cases dt <;> rfl
      refine ⟨?_, ?_, ?_, fun hz => absurd (hz c List.mem_cons_self) hc, ?_⟩
      · rw [h1, List.length_cons]; congr 1; omega
      · rw [h2, hout, hmap, List.append_assoc]
        congr 1
        simp [timeoutsFrom, List.zipIdx_cons, hc]
      · rw [h3]
        have : (timeOut dt i s).anyTimeout = true := by cases dt <;> rfl
        simp [this, hc]
      · generalize verifyFrom dt (i + 1) cs (timeOut dt i s) = t at h5 ⊢
        rw [h5]
        cases dt <;> rfl

/-- What verification of one device type does. -/
theorem verifyType_spec (dt : DeviceType) (s : State) :
    (verifyType dt s).exp dt = List.replicate (s.exp dt).length 0 ∧
      (verifyType dt s).out = s.out ++ timeouts dt s ∧
      ((verifyType dt s).anyTimeout = true ↔ s.anyTimeout = true ∨ ∃ c ∈ s.exp dt, c ≠ 0) ∧
      ((∀ c ∈ s.exp dt, c = 0) → verifyType dt s = s) ∧
      verifyType dt s = { s.setExp dt ((verifyType dt s).exp dt) with
        out := (verifyType dt s).out, warnRec := (verifyType dt s).warnRec
        anyTimeout := (verifyType dt s).anyTimeout } := by
  have := verifyFrom_spec dt (s.exp dt) 0 s rfl
  rw [Nat.zero_add] at this
  exact this

/-- `timeouts` depends on the counters, the address map and `t_cycle` alone. -/
theorem timeouts_congr {dt : DeviceType} {s t : State} (h1 : t.exp dt = s.exp dt) (h2 : t.ilcMap = s.ilcMap)
    (h3 : t.tCycle = s.tCycle) : timeouts dt t = timeouts dt s := by
  simp only [timeouts, warning, actuatorIdOf, h1, h2, h3]

/-- What `verifyResponses` does (R308). -/
theorem verifyAll_spec (s : State) :
    (verifyAll s).out = s.out ++ timeouts .fa s ++ timeouts .ha s ++ timeouts .hm s ∧
      (∀ dt, (verifyAll s).exp dt = List.replicate (s.exp dt).length 0) ∧
      ((verifyAll s).anyTimeout = true ↔ s.anyTimeout = true ∨ ∃ dt, ∃ c ∈ s.exp dt, c ≠ 0) ∧
      ((∀ dt, ∀ c ∈ s.exp dt, c = 0) → verifyAll s = s) ∧
      verifyAll s = { s with
        faExp := (verifyAll s).faExp, haExp := (verifyAll s).haExp, hmExp := (verifyAll s).hmExp
        out := (verifyAll s).out, warnRec := (verifyAll s).warnRec, anyTimeout := (verifyAll s).anyTimeout } := by
  obtain ⟨a1, a2, a3, a4, a5⟩ := verifyType_spec .fa s
  obtain ⟨b1, b2, b3, b4, b5⟩ := verifyType_spec .ha (verifyType .fa s)
  obtain ⟨c1, c2, c3, c4, c5⟩ := verifyType_spec .hm (verifyType .ha (verifyType .fa s))
  have u1 : (verifyType .fa s).exp .ha = s.exp .ha := by rw [a5]; rfl
  have u2 : (verifyType .fa s).exp .hm = s.exp .hm := by rw [a5]; rfl
  have v1 : (verifyType .ha (verifyType .fa s)).exp .hm = s.exp .hm := by rw [b5, ← u2]; rfl
  have m1 : (verifyType .fa s).ilcMap = s.ilcMap ∧ (verifyType .fa s).tCycle = s.tCycle := by
    rw [a5]; exact ⟨rfl, rfl⟩
  have m2 : (verifyType .ha (verifyType .fa s)).ilcMap = s.ilcMap ∧
      (verifyType .ha (verifyType .fa s)).tCycle = s.tCycle := by
    rw [← m1.1, ← m1.2, b5]; exact ⟨rfl, rfl⟩
  have t1 : timeouts .ha (verifyType .fa s) = timeouts .ha s := timeouts_congr u1 m1.1 m1.2
  have t2 : timeouts .hm (verifyType .ha (verifyType .fa s)) = timeouts .hm s := timeouts_congr v1 m2.1 m2.2
  have w1 : (verifyAll s).exp .ha = (verifyType .ha (verifyType .fa s)).exp .ha := by
    show (verifyType .hm _).exp .ha = _
    rw [c5]; rfl
  have w2 : (verifyType .ha (verifyType .fa s)).exp .fa = (verifyType .fa s).exp .fa := by rw [b5]; rfl
  have w3 : (verifyAll s).exp .fa = (verifyType .ha (verifyType .fa s)).exp .fa := by
    show (verifyType .hm _).exp .fa = _
    rw [c5]; rfl
  refine ⟨?_, fun dt => ?_, ?_, fun hz => ?_, ?_⟩
  · show (verifyType .hm _).out = _
    rw [c2, b2, a2, t1, t2]
  · cases dt with
    | fa => rw [w3, w2, a1]
    | ha => rw [w1, b1, u1]
    | hm => exact c1.trans (by rw [v1])
  · show (verifyType .hm _).anyTimeout = true ↔ _
    rw [c3, b3, a3, u1, v1]
    constructor
    · rintro (((h | h) | h) | h)
      · exact .inl h
      · exact .inr ⟨.fa, h⟩
      · exact .inr ⟨.ha, h⟩
      · exact .inr ⟨.hm, h⟩
    · rintro (h | ⟨dt, h⟩)
      · exact .inl (.inl (.inl h))
      · cases dt
        · exact .inl (.inl (.inr h))
        · exact .inl (.inr h)
        · exact .inr h
  · have e1 := a4 (hz .fa)
    have e2 := b4 (by rw [u1]; exact hz .ha)
    have e3 := c4 (by rw [v1]; exact hz .hm)
    show verifyType .hm (verifyType .ha (verifyType .fa s)) = s
    rw [e3, e2, e1]
  · have e : verifyAll s = verifyType .hm (verifyType .ha (verifyType .fa s)) := rfl
    generalize verifyType .hm (verifyType .ha (verifyType .fa s)) = t at c5 e
    rw [e]
    generalize verifyType .ha (verifyType .fa s) = u at b5 c5
    generalize verifyType .fa s = v at a5 b5
    rw [c5, b5, a5]; rfl

/-- The last of the warnings among the events, if there is one, and else `r`. -/
def lastWarning (es : List Event) (r : WarnRec) : WarnRec :=
  es.foldl (fun r e => match e with | .warning w => w | _ => r) r

theorem lastWarning_append (es es' : List Event) (r : WarnRec) :
    lastWarning (es ++ es') r = lastWarning es' (lastWarning es r) := List.foldl_append

theorem lastWarning_of_getLast {es : List Event} {w : WarnRec} (h : es.getLast? = some (.warning w)) (r : WarnRec) :
    lastWarning es r = w := by
  obtain ⟨ys, rfl⟩ := List.getLast?_eq_some_iff.1 h
  rw [lastWarning_append]; rfl

/-- Verification leaves the record of its last warning (R313, R330). -/
theorem verifyFrom_warnRec (dt : DeviceType) (cs : List Int) (i : Nat) (s : State) :
    (verifyFrom dt i cs s).warnRec = lastWarning (timeoutsFrom dt i cs s) s.warnRec := by
  induction cs generalizing i s with
  | nil => rfl
  | cons c cs ih =>
    rw [verifyFrom, ih]
    by_cases hc : c = 0
    · rw [if_pos hc]; simp [timeoutsFrom, List.zipIdx_cons, hc]
    · rw [if_neg hc]
      have h1 : timeoutsFrom dt (i + 1) cs (timeOut dt i s) = timeoutsFrom dt (i + 1) cs s := by cases dt <;> rfl
      have h2 : (timeOut dt i s).warnRec = warning s .responseTimeout (actuatorIdOf dt i s) := by cases dt <;> rfl
      have h3 : timeoutsFrom dt i (c :: cs) s =
          .warning (warning s .responseTimeout (actuatorIdOf dt i s)) :: timeoutsFrom dt (i + 1) cs s := by
        simp [timeoutsFrom, List.zipIdx_cons, hc]
      rw [h1, h2, h3]; rfl

theorem verifyAll_warnRec (s : State) :
    (verifyAll s).warnRec = lastWarning (timeouts .fa s ++ timeouts .ha s ++ timeouts .hm s) s.warnRec := by
  obtain ⟨-, -, -, -, a5⟩ := verifyType_spec .fa s
  obtain ⟨-, -, -, -, b5⟩ := verifyType_spec .ha (verifyType .fa s)
  have e : ∀ dt u, (verifyType dt u).warnRec = lastWarning (timeouts dt u) u.warnRec :=
    fun dt u => verifyFrom_warnRec dt (u.exp dt) 0 u
  have t1 : timeouts .ha (verifyType .fa s) = timeouts .ha s := by
    apply timeouts_congr <;> (rw [a5]; rfl)
  have t2 : timeouts .hm (verifyType .ha (verifyType .fa s)) = timeouts .hm s := by
    apply timeouts_congr <;> (rw [b5]; show _ = _; rw [a5]; rfl)
  show (verifyType .hm _).warnRec = _
  rw [e, e, e, t1, t2, lastWarning_append, lastWarning_append]

/-- The events of a verification are warnings. -/
theorem timeouts_warning {dt : DeviceType} {s : State} {e : Event} (h : e ∈ timeouts dt s) :
    ∃ w, e = .warning w := by
  obtain ⟨p, -, rfl⟩ := List.mem_map.1 h
  exact ⟨_, rfl⟩

/-! ### Issue -/

/-- An issue changes counters only, in arrays of the same length (R303). -/
theorem issueItems_frame (items : List Item) (s : State) :
    issueItems items s = { s with
      faExp := (issueItems items s).faExp, haExp := (issueItems items s).haExp, hmExp := (issueItems items s).hmExp } ∧
      ∀ dt, ((issueItems items s).exp dt).length = (s.exp dt).length := by
  induction items generalizing s with
  | nil => exact ⟨rfl, fun _ => rfl⟩
  | cons it items ih =>
    rw [issueItems]
    split
    · rename_i ch _ _
      obtain ⟨h1, h2⟩ := ih (bumpExpected ch 1 s)
      have hb := decodedBy_bump ch 1 s
      refine ⟨?_, fun dt => (h2 dt).trans (hb.counters dt)⟩
      generalize issueItems items (bumpExpected ch 1 s) = t at h1
      rw [h1]
      unfold bumpExpected
      cases ch.deviceType <;> rfl
    · exact ih s

/-- The counters after an issue: one more for each item of the list that expects a response from the channel (R303). -/
theorem issueItems_exp (items : List Item) (s : State) (dt : DeviceType) :
    (issueItems items s).exp dt = raised items dt (s.exp dt) := by
  induction items generalizing s with
  | nil =>
    refine List.ext_getElem? fun j => ?_
    simp [issueItems, raised, requestsTo]
  | cons it items ih =>
    rw [issueItems, ih]
    have one : ∀ i, requestsTo (it :: items) dt i = requestsTo items dt i +
        if it.expects && it.channel.any fun c => decide (c.deviceType = dt) && decide (c.dataIndex = (i : Int))
          then 1 else 0 := by
      intro i
      unfold requestsTo
      rw [List.filter_cons]
      split <;> simp
    split
    · rename_i ch he hc
      refine List.ext_getElem? fun j => ?_
      have hb : (bumpExpected ch 1 s).exp dt = if ch.deviceType = dt then addAt (s.exp dt) ch.dataIndex 1 else s.exp dt := by
        unfold bumpExpected
        cases hd : ch.deviceType <;> cases dt <;> rfl
      rw [hb]
      simp only [raised, List.getElem?_mapIdx, one, he, hc, Option.any_some, Bool.true_and]
      by_cases hd : ch.deviceType = dt
      · rw [if_pos hd, addAt_eq, List.getElem?_mapIdx]
        cases (s.exp dt)[j]? with
        | none => rfl
        | some v =>
          simp only [Option.map_some, hd, decide_true, Bool.true_and, decide_eq_true_eq]
          split
          · simp; omega
          · simp
      · rw [if_neg hd]
        simp [hd]
    · rename_i h
      refine List.ext_getElem? fun j => ?_
      simp only [raised, List.getElem?_mapIdx, one]
      have : (it.expects && it.channel.any fun c => decide (c.deviceType = dt) && decide (c.dataIndex = (j : Int))) = false := by
        cases he : it.expects with
        | false => rfl
        | true =>
          cases hc : it.channel with
          | none => rfl
          | some c => exact absurd hc (fun hc => h c he hc)
      rw [this]; simp

theorem phaseAfter_eq (n : SubnetNo) : phaseAfter n = phaseBehind n := by cases n <;> rfl

@[simp] theorem assemble_nil : assemble [] = [] := rfl

/-- What an issue does (R301, R303, R304). -/
theorem issuePhase_eq (s : State) :
    issuePhase s = { s with
      buf := [], len := 0, idx := 0
      faExp := raised (busList s.curOp s) .fa s.faExp, haExp := raised (busList s.curOp s) .ha s.haExp
      hmExp := raised (busList s.curOp s) .hm s.hmExp
      out := s.out ++ [issueWrite (busList s.curOp s) s.params.writeTimeoutMs] } := by
  obtain ⟨h1, -⟩ := issueItems_frame (busList s.curOp s) (resetBuffer s)
  have e1 := issueItems_exp (busList s.curOp s) (resetBuffer s) .fa
  have e2 := issueItems_exp (busList s.curOp s) (resetBuffer s) .ha
  have e3 := issueItems_exp (busList s.curOp s) (resetBuffer s) .hm
  simp only [State.exp] at e1 e2 e3
  unfold issuePhase
  dsimp only [State.emit]
  rw [h1, e1, e2, e3]
  rfl

/-! ### One phase -/

/-- `t` is `s` after a phase of a running cycle, or several: events that hold no timeout report were added, and
besides only the buffer and the cursor, the working registers, the counters, the check flags, the warning record and
the cycle's own registers may have changed. -/
structure CycleBy (s t : State) : Prop where
  events : ∃ new, t.out = s.out ++ new ∧ ∀ e ∈ new, ∀ b, e ≠ .ilcCommunicationTimeout b
  flags : t.limitFlag.length = s.limitFlag.length ∧ t.feFlag.length = s.feFlag.length
  counters : ∀ dt, (t.exp dt).length = (s.exp dt).length
  frame : t = { s with
    buf := t.buf, len := t.len, idx := t.idx, faExp := t.faExp, haExp := t.haExp, hmExp := t.hmExp, fs := t.fs
    tail := t.tail, n := t.n, crcCalc := t.crcCalc, crcRx := t.crcRx, ts := t.ts, addr := t.addr, fn := t.fn
    ch := t.ch, warnRec := t.warnRec, limitFlag := t.limitFlag, feFlag := t.feFlag, out := t.out
    phase := t.phase, signaled := t.signaled, anyTimeout := t.anyTimeout }

theorem cycleBy_refl (s : State) : CycleBy s s :=
  ⟨⟨[], (List.append_nil _).symm, fun e he => by cases he⟩, ⟨rfl, rfl⟩, fun _ => rfl, rfl⟩

theorem CycleBy.trans {s t u : State} (h : CycleBy s t) (g : CycleBy t u) : CycleBy s u := by
  obtain ⟨e, he, hc⟩ := h.events
  obtain ⟨e', he', hc'⟩ := g.events
  refine ⟨⟨e ++ e', by rw [he', he, List.append_assoc], fun x hx => ?_⟩,
    ⟨g.flags.1.trans h.flags.1, g.flags.2.trans h.flags.2⟩, fun dt => (g.counters dt).trans (h.counters dt), ?_⟩
  · rcases List.mem_append.1 hx with hx | hx
    · exact hc x hx
    · exact hc' x hx
  · have hs := h.frame
    have ht := g.frame
    rw [ht]
    rw [hs]

/-- The issue. -/
theorem cycleBy_issue (s : State) : CycleBy s { issuePhase s with phase := .wait .one } := by
  obtain ⟨h1, h2⟩ := issueItems_frame (busList s.curOp s) (resetBuffer s)
  unfold issuePhase
  dsimp only [State.emit]
  generalize issueItems (busList s.curOp s) (resetBuffer s) = t at h1 h2
  refine ⟨⟨[issueWrite (busList s.curOp s) s.params.writeTimeoutMs], by rw [h1]; rfl, fun e he b => ?_⟩, ?_, h2, ?_⟩
  · rw [List.mem_singleton.1 he]; exact fun h => by cases h
  · rw [h1]; exact ⟨rfl, rfl⟩
  · rw [h1]; rfl

/-- The buffer after an issue is empty. -/
theorem issuePhase_buffer (s : State) :
    (issuePhase s).buf = [] ∧ (issuePhase s).len = 0 ∧ (issuePhase s).idx = 0 := by
  obtain ⟨h1, -⟩ := issueItems_frame (busList s.curOp s) (resetBuffer s)
  unfold issuePhase
  dsimp only [State.emit]
  generalize issueItems (busList s.curOp s) (resetBuffer s) = t at h1
  rw [h1]; exact ⟨rfl, rfl, rfl⟩

/-- One subnet's read, load and decode always answer, with the whole buffer used (R306, R210). -/
theorem decodePhase_answers (n : SubnetNo) (s : State) :
    ∃ t, decodePhase n s = .ok t ∧ CycleBy s t ∧ t.phase = s.phase ∧ t.signaled = s.signaled ∧
      BufferOk t ∧ t.buf.wf = true := by
  have hlen : (received n s).length ≤ s.capacity := by
    rw [received, List.length_take]; exact Nat.min_le_left _ _
  obtain ⟨t, w, ht, hi, hd, -⟩ := decodeWholeBuffer_answers n.num
    (s := s.emit (.transportRead n.num (received n s).length s.params.readTimeoutMs)) hlen
  obtain ⟨new, h1, -, h3⟩ := hd.reports
  refine ⟨t, ht, ⟨⟨.transportRead n.num (received n s).length s.params.readTimeoutMs :: new, ?_, fun e he b => ?_⟩,
    hd.flags, fun dt => (hd.counters dt).trans (by cases dt <;> rfl), ?_⟩, ?_, ?_, ?_, ?_⟩
  · rw [h1]; simp [State.emit]
  · rcases List.mem_cons.1 he with rfl | he
    · exact fun h => by cases h
    · exact h3 e he b
  · have := hd.frame
    rw [this]; rfl
  · rw [hd.frame]; rfl
  · rw [hd.frame]; rfl
  · exact hd.bufferOk (loaded_bufferOk (s := s.emit _) hlen) (Nat.le_of_eq hi)
  · rw [hd.buf]; exact Memory.wf_ofWords 0 _

/-- One phase but the last, in a running cycle. -/
theorem advance_running {s : State} (h1 : s.phase ≠ .idle) (h2 : s.phase ≠ .verify) :
    ∃ t, advance s = .ok t ∧ CycleBy s t ∧ t.phase ≠ .idle ∧
      ((t.buf = s.buf ∧ t.len = s.len ∧ t.idx = s.idx) ∨ (BufferOk t ∧ t.buf.wf = true)) := by
  unfold advance
  have hn : ∀ n, phaseAfter n ≠ .idle := fun n => by cases n <;> decide
  split
  · exact absurd ‹_› h1
  · refine ⟨_, rfl, cycleBy_issue s, Phase.noConfusion, .inr ⟨⟨?_, ?_, ?_⟩, ?_⟩⟩
    · show (issuePhase s).buf.map _ = List.range (issuePhase s).len
      rw [(issuePhase_buffer s).1, (issuePhase_buffer s).2.1]; rfl
    · show (issuePhase s).idx ≤ (issuePhase s).len
      rw [(issuePhase_buffer s).2.2]; exact Nat.zero_le _
    · show (issuePhase s).len ≤ _
      rw [(issuePhase_buffer s).2.1]; exact Nat.zero_le _
    · show (issuePhase s).buf.wf = true
      rw [(issuePhase_buffer s).1]; rfl
  · rename_i n _
    refine ⟨_, rfl, ⟨⟨[], (List.append_nil _).symm, fun e he => by cases he⟩, ⟨rfl, rfl⟩,
      fun dt => by cases dt <;> rfl, rfl⟩, ?_, .inl ⟨rfl, rfl, rfl⟩⟩
    dsimp only
    split
    · exact Phase.noConfusion
    · exact hn n
  · rename_i n _
    obtain ⟨t, ht, hc, -, -, hb, hw⟩ := decodePhase_answers n s
    rw [ht]
    refine ⟨_, rfl, hc.trans ⟨⟨[], (List.append_nil _).symm, fun e he => by cases he⟩, ⟨rfl, rfl⟩,
      fun dt => by cases dt <;> rfl, rfl⟩, hn n, .inr ⟨⟨hb.words, hb.cursor, hb.room⟩, hw⟩⟩
  · exact absurd ‹_› h2

/-- The verification and the end of the cycle: the report comes last (R308 to R310). -/
theorem verifyPhase_spec (s : State) :
    ∃ mid, (verifyPhase s).out = s.out ++ mid ++ [.ilcCommunicationTimeout (verifyPhase s).anyTimeout] ∧
      mid = timeouts .fa s ++ timeouts .ha s ++ timeouts .hm s ∧
      (∀ dt, (verifyPhase s).exp dt = List.replicate (s.exp dt).length 0) ∧
      ((verifyPhase s).anyTimeout = true ↔ s.anyTimeout = true ∨ ∃ dt, ∃ c ∈ s.exp dt, c ≠ 0) ∧
      verifyPhase s = { s with
        faExp := (verifyPhase s).faExp, haExp := (verifyPhase s).haExp, hmExp := (verifyPhase s).hmExp
        out := (verifyPhase s).out, warnRec := (verifyPhase s).warnRec, anyTimeout := (verifyPhase s).anyTimeout
        phase := .idle, cycleBusy := false } := by
  obtain ⟨h1, h2, h3, -, h5⟩ := verifyAll_spec s
  refine ⟨_, ?_, rfl, ?_, ?_, ?_⟩
  · show (verifyAll s).out ++ _ = _
    rw [h1]; simp only [List.append_assoc]; rfl
  · intro dt
    rw [← h2 dt]; cases dt <;> rfl
  · exact h3
  · unfold verifyPhase
    dsimp only [State.emit]
    generalize verifyAll s = t at h5
    rw [h5]

/-- One phase always answers, and it is the phase the spec describes (R301, R303 to R310). -/
theorem advance_phaseStep (s : State) : ∃ u, advance s = .ok u ∧ PhaseStep s u := by
  unfold advance PhaseStep
  cases hp : s.phase with
  | idle => exact ⟨s, rfl, rfl⟩
  | issue => exact ⟨_, rfl, by rw [issuePhase_eq]⟩
  | wait n => exact ⟨_, rfl, by rw [phaseAfter_eq]⟩
  | decode n =>
    obtain ⟨t, ht, -⟩ := decodePhase_answers n s
    dsimp only
    rw [ht]
    refine ⟨_, rfl, t, ?_, by rw [phaseAfter_eq]⟩
    rw [← hp]
    show outcome (decodePhase n s) = _
    rw [ht]; rfl
  | verify => exact ⟨_, rfl, verifyAll s, rfl, rfl⟩

/-! ### A whole cycle -/

theorem advanceMany_idle {s : State} (h : s.phase = .idle) (k : Nat) : advanceMany k s = .ok s := by
  induction k with
  | zero => rfl
  | succ k ih =>
    have : advance s = .ok s := by unfold advance; rw [h]
    rw [advanceMany, this]; exact ih

theorem advanceMany_step {s t : State} (h : advance s = .ok t) (k : Nat) :
    advanceMany (k + 1) s = advanceMany k t := by rw [advanceMany, h]

/-- A phase that answers is the phase the spec describes. -/
theorem phaseStep_of_advance {s u : State} (h : advance s = .ok u) : PhaseStep s u := by
  obtain ⟨v, hv, hp⟩ := advance_phaseStep s
  rw [hv] at h
  cases h
  exact hp

theorem phaseSteps_trans {j k : Nat} {s t u : State} (h : PhaseSteps j s t) (g : PhaseSteps k t u) :
    PhaseSteps (j + k) s u := by
  induction j generalizing s with
  | zero => cases h; rw [Nat.zero_add]; exact g
  | succ j ih =>
    obtain ⟨v, hv, hr⟩ := h
    rw [Nat.add_right_comm]
    exact ⟨v, hv, ih hr⟩

/-- How many phases subnet `n` takes: the wait, and the decode on a signal (R305, R306). -/
def subnetPhases (n : SubnetNo) (s : State) : Nat := if s.env.signal.get n then 2 else 1

/-- What the phases of subnet `n` do, from its wait to the phase after it. -/
theorem advance_subnet {n : SubnetNo} {s : State} (h : s.phase = .wait n) :
    ∃ t, t.phase = phaseAfter n ∧ CycleBy s t ∧ PhaseSteps (subnetPhases n s) s t ∧ t.env = s.env ∧
      t.signaled = s.signaled.set n (s.env.signal.get n) ∧
      ∀ k, advanceMany (k + subnetPhases n s) s = advanceMany k t := by
  have ha : advance s = .ok { s with
      signaled := s.signaled.set n (s.env.signal.get n)
      phase := if s.env.signal.get n then .decode n else phaseAfter n } := by unfold advance; rw [h]
  have hc : CycleBy s { s with
      signaled := s.signaled.set n (s.env.signal.get n)
      phase := if s.env.signal.get n then .decode n else phaseAfter n } :=
    ⟨⟨[], (List.append_nil _).symm, fun e he => by cases he⟩, ⟨rfl, rfl⟩, fun dt => by cases dt <;> rfl, rfl⟩
  unfold subnetPhases
  cases hs : s.env.signal.get n with
  | false =>
    rw [hs] at ha hc
    exact ⟨_, rfl, hc, ⟨_, phaseStep_of_advance ha, rfl⟩, rfl, rfl, fun k => advanceMany_step ha k⟩
  | true =>
    rw [hs] at ha hc
    simp only [if_true] at ha hc
    obtain ⟨t, ht, hct, -, hsig, -, -⟩ := decodePhase_answers n
      { s with signaled := s.signaled.set n true, phase := .decode n }
    have ha2 : advance { s with signaled := s.signaled.set n true, phase := .decode n } =
        .ok { t with phase := phaseAfter n } := by
      unfold advance
      simp only [ht]
    refine ⟨{ t with phase := phaseAfter n }, rfl, hc.trans (hct.trans ⟨⟨[], (List.append_nil _).symm,
      fun e he => by cases he⟩, ⟨rfl, rfl⟩, fun dt => by cases dt <;> rfl, rfl⟩),
      ⟨_, phaseStep_of_advance ha, _, phaseStep_of_advance ha2, rfl⟩, ?_, hsig, fun k => ?_⟩
    · show t.env = s.env
      rw [hct.frame]
    · rw [if_pos rfl, advanceMany_step ha (k + 1), advanceMany_step ha2]

theorem signalCount_eq (s : State) :
    signalCount s.env.signal + 5 = subnetPhases .one s + subnetPhases .two s + subnetPhases .three s +
      subnetPhases .four s + subnetPhases .five s := by
  unfold signalCount subnetPhases
  simp only [List.filter_cons, List.filter_nil]
  repeat' split
  all_goals rfl

/-- What a whole cycle does: the issue, then the five subnets in order, then the verification (R301). -/
theorem wholeCycle_answers (op : Op) (tm : BitVec 64) (s : State) :
    ∃ t, wholeCycle op tm s = .ok (verifyPhase t) ∧
      CycleBy { issuePhase (beginCycle op tm s) with phase := .wait .one } t ∧ t.phase = .verify ∧
      t.signaled = s.env.signal ∧ PhaseSteps (7 + signalCount s.env.signal) (started op tm s) (verifyPhase t) := by
  have hb : advance (beginCycle op tm s) =
      .ok { issuePhase (beginCycle op tm s) with phase := .wait .one } := rfl
  obtain ⟨t1, p1, c1, s1, e1, g1, k1⟩ := advance_subnet
    (s := { issuePhase (beginCycle op tm s) with phase := .wait .one }) (n := .one) rfl
  obtain ⟨t2, p2, c2, s2, e2, g2, k2⟩ := advance_subnet (n := .two) p1
  obtain ⟨t3, p3, c3, s3, e3, g3, k3⟩ := advance_subnet (n := .three) p2
  obtain ⟨t4, p4, c4, s4, e4, g4, k4⟩ := advance_subnet (n := .four) p3
  obtain ⟨t5, p5, c5, s5, e5, g5, k5⟩ := advance_subnet (n := .five) p4
  have hv : advance t5 = .ok (verifyPhase t5) := by unfold advance; rw [p5]; rfl
  have e0 : ({ issuePhase (beginCycle op tm s) with phase := .wait .one } : State).env = s.env := by
    rw [issuePhase_eq]; rfl
  generalize ({ issuePhase (beginCycle op tm s) with phase := .wait .one } : State) = t0 at *
  have e1' := e1.trans e0
  have e2' := e2.trans e1'
  have e3' := e3.trans e2'
  have e4' := e4.trans e3'
  have count := signalCount_eq s
  have q : ∀ {n : SubnetNo} {u : State}, u.env = s.env → subnetPhases n u = subnetPhases n s := by
    intro n u hu; unfold subnetPhases; rw [hu]
  rw [q e0] at s1 k1
  rw [q e1'] at s2 k2
  rw [q e2'] at s3 k3
  rw [q e3'] at s4 k4
  rw [q e4'] at s5 k5
  have le : ∀ n, 1 ≤ subnetPhases n s ∧ subnetPhases n s ≤ 2 := by
    intro n; unfold subnetPhases; split <;> omega
  have l1 := le .one
  have l2 := le .two
  have l3 := le .three
  have l4 := le .four
  have l5 := le .five
  refine ⟨t5, ?_, (((c1.trans c2).trans c3).trans c4).trans c5, p5, ?_, ?_⟩
  · rw [wholeCycle, cyclePhases, advanceMany_step hb 11,
      show 11 = 11 - subnetPhases .one s + subnetPhases .one s by omega, k1,
      show 11 - subnetPhases .one s =
        11 - subnetPhases .one s - subnetPhases .two s + subnetPhases .two s by omega, k2,
      show 11 - subnetPhases .one s - subnetPhases .two s =
        11 - subnetPhases .one s - subnetPhases .two s - subnetPhases .three s + subnetPhases .three s by omega, k3,
      show 11 - subnetPhases .one s - subnetPhases .two s - subnetPhases .three s =
        11 - subnetPhases .one s - subnetPhases .two s - subnetPhases .three s - subnetPhases .four s +
          subnetPhases .four s by omega, k4,
      show 11 - subnetPhases .one s - subnetPhases .two s - subnetPhases .three s - subnetPhases .four s =
        10 - subnetPhases .one s - subnetPhases .two s - subnetPhases .three s - subnetPhases .four s -
          subnetPhases .five s + 1 + subnetPhases .five s by omega, k5, advanceMany_step hv]
    exact advanceMany_idle rfl _
  · rw [g5, g4, g3, g2, g1, e0, e1', e2', e3', e4']
    rfl
  · rw [show 7 + signalCount s.env.signal = 1 + (subnetPhases .one s + (subnetPhases .two s +
      (subnetPhases .three s + (subnetPhases .four s + (subnetPhases .five s + 1))))) by omega]
    exact phaseSteps_trans ⟨t0, phaseStep_of_advance hb, rfl⟩ (phaseSteps_trans s1 (phaseSteps_trans s2
      (phaseSteps_trans s3 (phaseSteps_trans s4 (phaseSteps_trans s5 ⟨_, phaseStep_of_advance hv, rfl⟩)))))

end Sys2Proof.Machine
end

