-- ==== Sys2Proof/Laws/Invariant.lean ====
section
/-! SUPPORT. Each shared operation keeps the block's invariant. -/
namespace Sys2Proof.Machine

open Sys2Proof.Safety

/-- The invariant of a state that agrees with `s` on all but the buffer, the counters' and flags' values and the
registers the invariant does not speak of. -/
theorem inv_congr {s t : State} (h : Inv s) (hb : BufferOk t) (hw : t.buf.wf = true)
    (hc : ∀ dt, (t.exp dt).length = (s.exp dt).length)
    (hf : t.limitFlag.length = s.limitFlag.length ∧ t.feFlag.length = s.feFlag.length)
    (hr : t.busLists = s.busLists ∧ t.ilcMap = s.ilcMap ∧ t.params = s.params ∧ t.phase = s.phase ∧
      t.cycleBusy = s.cycleBusy) : Inv t := by
  obtain ⟨r1, r2, r3, r4, r5⟩ := hr
  refine ⟨hb, hw, by rw [r1]; exact h.busLists, by rw [r1]; exact h.items, by rw [r2]; exact h.map, ?_, ?_, ?_⟩
  · rw [r3]
    exact ⟨(hc .fa).trans h.counters.1, (hc .ha).trans h.counters.2.1, (hc .hm).trans h.counters.2.2⟩
  · rw [r3]; exact ⟨hf.1.trans h.flags.1, hf.2.trans h.flags.2⟩
  · rw [r4, r5]; exact h.lock

/-- Moving the cursor inside the buffer, and writing registers the invariant does not speak of. -/
theorem inv_registers {s t : State} (h : Inv s) (hi : t.idx ≤ s.len) (ht : t = { s with
    idx := t.idx, fs := t.fs, tail := t.tail, n := t.n, crcCalc := t.crcCalc, crcRx := t.crcRx, ts := t.ts
    addr := t.addr, fn := t.fn, ch := t.ch, warnRec := t.warnRec, freeCount := t.freeCount, out := t.out, env := t.env
    schedule := t.schedule, port := t.port, ret := t.ret }) : Inv t := by
  rw [ht]
  exact inv_congr h ⟨h.buffer.words, hi, h.buffer.room⟩ h.memory (fun dt => by cases dt <;> rfl) ⟨rfl, rfl⟩
    ⟨rfl, rfl, rfl, rfl, rfl⟩

/-- A buffer that holds exactly `ws`. -/
theorem inv_buffer {s t : State} {ws : List Word} (h : Inv s) (hh : HoldsExactly t ws) (hw : t.buf.wf = true)
    (hl : ws.length ≤ s.capacity) (ht : t = { s with buf := t.buf, idx := t.idx, len := t.len }) : Inv t := by
  refine inv_congr h ⟨?_, ?_, ?_⟩ hw (fun dt => by rw [ht]; cases dt <;> rfl) (by rw [ht]; exact ⟨rfl, rfl⟩)
    (by rw [ht]; exact ⟨rfl, rfl, rfl, rfl, rfl⟩)
  · refine Memory.keys_eq_range hw fun a => ?_
    rw [hh.memory, hh.length]
    simp
  · rw [hh.cursor, hh.length]
  · rw [hh.length, show t.capacity = s.capacity by rw [ht]]; exact hl

/-! ### The buffer's operations -/

/-- A write at the cursor (R11, R12). -/
theorem inv_putWords {s t : State} (ws : List Word) (h : Inv s) (ht : putWords ws s = .ok t) : Inv t := by
  by_cases hne : ws = []
  · subst hne; cases ht; exact h
  rcases putWords_cases ws (s := s) hne with ⟨hr, u, hu, ha, hw⟩ | ⟨-, hu⟩
  · rw [hu] at ht
    cases ht
    have hf := ha.frame
    have hs := fun a => bufferOk_read h.buffer a
    refine inv_congr h ⟨?_, ?_, ?_⟩ (hw h.memory) (fun dt => by rw [hf]; cases dt <;> rfl)
      (by rw [hf]; exact ⟨rfl, rfl⟩) (by rw [hf]; exact ⟨rfl, rfl, rfl, rfl, rfl⟩)
    · refine Memory.keys_eq_range (hw h.memory) fun a => ?_
      have hc := h.buffer.cursor
      rw [ha.memory, ha.length]
      split
      · rw [hs]; omega
      · have : (ws[a - s.idx]?).isSome = true ↔ a - s.idx < ws.length := by simp
        rw [this]; omega
    · rw [ha.cursor, ha.length]
    · rw [ha.length, appended_capacity ha]; exact hr
  · rw [hu] at ht; cases ht

theorem inv_putWord {s t : State} {w : Word} (h : Inv s) (ht : putWord w s = .ok t) : Inv t :=
  inv_putWords [w] h (by rw [putWords, ht]; rfl)

theorem inv_resetBuffer {s : State} (h : Inv s) : Inv (resetBuffer s) :=
  inv_buffer (ws := []) h ⟨rfl, rfl, fun _ => rfl⟩ rfl (Nat.zero_le _) rfl

theorem inv_loadBuffer {s t : State} {ws : List Word} (h : Inv s) (ht : loadBuffer ws s = .ok t) : Inv t := by
  unfold loadBuffer at ht
  split at ht
  · cases ht
  · cases ht
    have hb := loaded_bufferOk (s := s) (ws := ws) (by omega)
    exact inv_congr h hb (Memory.wf_ofWords 0 ws) (fun dt => by cases dt <;> rfl) ⟨rfl, rfl⟩
      ⟨rfl, rfl, rfl, rfl, rfl⟩

theorem inv_skip {s : State} (h : Inv s) : Inv (skipToNextFrame s) :=
  inv_registers h (nextFrame_bounds s h.buffer.cursor).2.1 rfl

/-! ### Reads -/

/-- `t` is `s` with the cursor moved on, inside the buffer if it was inside. -/
def MovedBy (s t : State) : Prop := ∃ k, t = { s with idx := s.idx + k } ∧ (s.idx ≤ s.len → s.idx + k ≤ s.len)

theorem MovedBy.trans {s t u : State} (h : MovedBy s t) (g : MovedBy t u) : MovedBy s u := by
  obtain ⟨k, rfl, hk⟩ := h
  obtain ⟨j, rfl, hj⟩ := g
  refine ⟨k + j, by simp [Nat.add_assoc], fun hi => ?_⟩
  have := hj (hk hi)
  dsimp only at this
  omega

theorem movedBy_getBytes {k : Nat} {s t : State} {bs : List Byte} (h : getBytes k s = .ok (bs, t)) : MovedBy s t := by
  refine ⟨k, (getBytes_frame h).1, fun hi => ?_⟩
  by_cases hk : k = 0
  · omega
  by_contra hc
  rw [getBytes_short (s := s) (k := k) (by omega) (by omega)] at h
  cases h

theorem movedBy_readUnsigned {k v : Nat} {s t : State} (h : readUnsigned k s = .ok (v, t)) : MovedBy s t := by
  unfold readUnsigned at h
  split at h
  · cases h; exact movedBy_getBytes ‹_›
  · cases h

theorem movedBy_readSigned {k : Nat} {v : Int} {s t : State} (h : readSigned k s = .ok (v, t)) : MovedBy s t := by
  unfold readSigned at h
  split at h
  · cases h; exact movedBy_getBytes ‹_›
  · cases h

theorem movedBy_readFloat {v : F32} {s t : State} (h : readFloat s = .ok (v, t)) : MovedBy s t := by
  unfold readFloat at h
  split at h
  · cases h; exact movedBy_getBytes ‹_›
  · cases h

theorem movedBy_readFloats {k : Nat} {v : List F32} {s t : State} (h : readFloats k s = .ok (v, t)) : MovedBy s t := by
  induction k generalizing s v with
  | zero => cases h; exact ⟨0, rfl, id⟩
  | succ k ih =>
    rw [readFloats] at h
    split at h
    · cases h
    · split at h
      · cases h
      · cases h; exact (movedBy_readFloat ‹_›).trans (ih ‹_›)

theorem movedBy_readCrc {v : Word} {s t : State} (h : readCrcBytes s = .ok (v, t)) : MovedBy s t := by
  unfold readCrcBytes at h
  split at h
  · cases h; exact movedBy_getBytes ‹_›
  · cases h

theorem movedBy_getByte {v : Byte} {s t : State} (h : getByte s = .ok (v, t)) : MovedBy s t := by
  unfold getByte at h
  split at h
  · rename_i w hw
    cases h
    refine ⟨1, rfl, fun _ => ?_⟩
    unfold wordAt at hw
    split at hw
    · omega
    · cases hw
  · cases h

theorem inv_moved {s t : State} (h : Inv s) (hm : MovedBy s t) : Inv t := by
  obtain ⟨k, rfl, hk⟩ := hm
  exact inv_registers h (hk h.buffer.cursor) rfl

/-- An operation that returns a value keeps the invariant if what it does to the state keeps it. -/
theorem inv_answer {α : Type} {mk : α → Ret} {e : Except Fault (α × State)} {t : State}
    (hk : ∀ v u, e = .ok (v, u) → Inv u) (ht : answer mk e = .next t) : Inv t := by
  cases e with
  | error f => cases ht
  | ok x =>
    cases ht
    have h := hk x.1 x.2 rfl
    exact inv_registers h h.buffer.cursor rfl

theorem inv_outcome {e : Except Fault State} {t : State} (hk : ∀ u, e = .ok u → Inv u) (ht : outcome e = .next t) :
    Inv t := by
  cases e with
  | error f => cases ht
  | ok x => cases ht; exact hk _ rfl

/-! ### Handlers -/

/-- `t` is `s` after a handler whose payload lay inside the buffer. -/
def ReadBy (s t : State) : Prop := ∃ k, HandledBy s t k ∧ (s.idx ≤ s.len → s.idx + k ≤ s.len)

theorem readBy_moved {s t : State} (h : MovedBy s t) : ReadBy s t := by
  obtain ⟨k, rfl, hk⟩ := h
  exact ⟨k, handledBy_move s k, hk⟩

theorem inv_read {s t : State} (h : Inv s) (hr : ReadBy s t) : Inv t := by
  obtain ⟨k, hh, hk⟩ := hr
  have hf := hh.frame
  have hi := hk h.buffer.cursor
  refine inv_congr h ⟨?_, ?_, ?_⟩ ?_ (fun dt => ?_) hh.flags ?_
  · rw [hf]; exact h.buffer.words
  · rw [hh.cursor, show t.len = s.len by rw [hf]]; exact hi
  · rw [hf]; exact h.buffer.room
  · rw [hf]; exact h.memory
  · rw [hf]; cases dt <;> rfl
  · rw [hf]; exact ⟨rfl, rfl, rfl, rfl, rfl⟩

theorem readBy_raw {f : Routed} {s t : State} {v : Fields} (h : readRaw f s = .ok (v, t)) : ReadBy s t := by
  unfold readRaw at h
  split at h
  · cases h; exact readBy_moved (movedBy_getBytes ‹_›)
  · cases h

theorem readBy_serverID {f : Routed} {s t : State} {v : Fields} (h : readServerID f s = .ok (v, t)) : ReadBy s t := by
  unfold readServerID at h
  split at h
  · cases h; exact readBy_moved (movedBy_getBytes ‹_›)
  · cases h

theorem readBy_serverStatus {f : Routed} {s t : State} {v : Fields} (h : readServerStatus f s = .ok (v, t)) :
    ReadBy s t := by
  unfold readServerStatus at h
  split at h
  · split at h
    · cases h
    · split at h
      · cases h
      · split at h
        · cases h
        · cases h
          exact readBy_moved (((movedBy_readUnsigned ‹_›).trans (movedBy_readUnsigned ‹_›)).trans
            (movedBy_readUnsigned ‹_›))
  · exact readBy_raw h

theorem readBy_mode {f : Routed} {s t : State} {v : Fields} (h : readMode f s = .ok (v, t)) : ReadBy s t := by
  unfold readMode at h
  split at h
  · cases h; exact readBy_moved (movedBy_readUnsigned ‹_›)
  · cases h

theorem readBy_statusBits {f : Routed} {s t : State} {v : Fields} (h : readStatusBits f s = .ok (v, t)) :
    ReadBy s t := by
  unfold readStatusBits at h
  split at h
  · cases h; exact readBy_moved (movedBy_readUnsigned ‹_›)
  · cases h

theorem readBy_gains {f : Routed} {s t : State} {v : Fields} (h : readGains f s = .ok (v, t)) : ReadBy s t := by
  unfold readGains at h
  split at h
  · cases h
  · split at h
    · cases h
    · cases h; exact readBy_moved ((movedBy_readFloat ‹_›).trans (movedBy_readFloat ‹_›))

theorem readBy_lvdt {f : Routed} {s t : State} {v : Fields} (h : readLvdt f s = .ok (v, t)) : ReadBy s t := by
  unfold readLvdt at h
  split at h
  · cases h
  · split at h
    · cases h
    · cases h; exact readBy_moved ((movedBy_readFloat ‹_›).trans (movedBy_readFloat ‹_›))

theorem readBy_calibration {f : Routed} {s t : State} {v : Fields} (h : readCalibration f s = .ok (v, t)) :
    ReadBy s t := by
  unfold readCalibration at h
  split at h
  · cases h; exact readBy_moved (movedBy_readFloats ‹_›)
  · cases h

theorem readBy_pressure {f : Routed} {s t : State} {v : Fields} (h : readPressure f s = .ok (v, t)) :
    ReadBy s t := by
  unfold readPressure at h
  split at h
  · cases h; exact readBy_moved (movedBy_readFloats ‹_›)
  · cases h

theorem readBy_pressureChecked {f : Routed} {s t : State} {v : Fields} (h : readPressureChecked f s = .ok (v, t)) :
    ReadBy s t := by
  unfold readPressureChecked at h
  split at h
  · cases h
    obtain ⟨k, hk, hi⟩ := readBy_moved (movedBy_readFloats ‹_›)
    exact ⟨k, checkAirPressure_handled hk _ _, hi⟩
  · cases h

theorem readBy_forces {f : Routed} {s t : State} {v : Fields} (h : readForces f s = .ok (v, t)) : ReadBy s t := by
  unfold readForces at h
  split at h
  · cases h
  · split at h
    · cases h
    · split at h
      · cases h
        obtain ⟨k, hk, hi⟩ := readBy_moved ((movedBy_readUnsigned ‹_›).trans (movedBy_readFloat ‹_›))
        exact ⟨k, checkForces_handled hk _ _ _, hi⟩
      · split at h
        · cases h
        · cases h
          obtain ⟨k, hk, hi⟩ := readBy_moved (((movedBy_readUnsigned ‹_›).trans (movedBy_readFloat ‹_›)).trans
            (movedBy_readFloat ‹_›))
          exact ⟨k, checkForces_handled hk _ _ _, hi⟩

theorem readBy_electromechanical {f : Routed} {s t : State} {v : Fields}
    (h : readElectromechanical f s = .ok (v, t)) : ReadBy s t := by
  unfold readElectromechanical at h
  split at h
  · cases h
  · split at h
    · cases h
    · split at h
      · cases h
      · cases h
        obtain ⟨k, hk, hi⟩ := readBy_moved (((movedBy_readUnsigned ‹_›).trans (movedBy_readSigned ‹_›)).trans
          (movedBy_readFloat ‹_›))
        exact ⟨k, checkLoadCell_handled hk _ _, hi⟩

theorem readBy_handlerOf {dt : DeviceType} {fn : Nat} {f : Routed} {s t : State} {v : Fields}
    (h : handlerOf dt fn f s = .ok (v, t)) : ReadBy s t := by
  unfold handlerOf at h
  split at h
  · exact readBy_serverID h
  split at h
  · exact readBy_serverStatus h
  split at h
  · exact readBy_mode h
  split at h
  · exact readBy_gains h
  split at h
  · exact readBy_forces h
  split at h
  · exact readBy_calibration h
  split at h
  · split at h
    · exact readBy_pressureChecked h
    · exact readBy_pressure h
  split at h
  · exact readBy_statusBits h
  split at h
  · exact readBy_electromechanical h
  split at h
  · exact readBy_lvdt h
  · exact readBy_raw h

theorem inv_raise {s : State} (k : WarnKind) (aid : Int) (h : Inv s) : Inv (raise k aid s) :=
  inv_registers h h.buffer.cursor rfl

/-- A response row keeps the invariant. -/
theorem inv_respond {fn : Nat} {r : Reader} {f : Routed} {s t : State}
    (hr : ∀ {u v}, r f s = .ok (v, u) → ReadBy s u) (h : Inv s) (ht : respond fn r f s = .ok t) : Inv t := by
  unfold respond at ht
  split at ht
  · split at ht
    · cases ht
      have := inv_read h (hr ‹_›)
      exact inv_registers this this.buffer.cursor rfl
    · cases ht
  · cases ht; exact inv_raise _ _ h

/-- An exception row keeps the invariant. -/
theorem inv_respondException {f : Routed} {s t : State} (h : Inv s) (ht : respondException f s = .ok t) : Inv t := by
  unfold respondException at ht
  split at ht
  · split at ht
    · cases ht; exact inv_raise _ _ (inv_moved h (movedBy_getByte ‹_›))
    · cases ht
  · cases ht; exact inv_raise _ _ h

theorem inv_dispatch {f : Routed} {fn : Byte} {s t : State} (h : Inv s) (ht : dispatchFrame f fn s = .ok t) :
    Inv t := by
  unfold dispatchFrame at ht
  split at ht
  · exact inv_respond readBy_handlerOf h ht
  · split at ht
    · exact inv_respondException h ht
    · cases ht; exact inv_raise _ _ h

/-! ### The validator and the sequencer -/

theorem inv_decoded {s t : State} {w : Nat} (h : Inv s) (hd : DecodedBy s t w) (hi : t.idx ≤ s.len) : Inv t :=
  inv_congr h (hd.bufferOk h.buffer hi) (by rw [hd.buf]; exact h.memory) hd.counters hd.flags
    (by rw [hd.frame]; exact ⟨rfl, rfl, rfl, rfl, rfl⟩)

theorem inv_decodeOneFrame {sub : Int} {s t : State} (h : Inv s) (ht : decodeOneFrame sub s = .ok t) : Inv t := by
  obtain ⟨u, hu, hd, hi⟩ := decodeOneFrame_answers sub h.buffer
  rw [hu] at ht
  cases ht
  exact inv_decoded h hd (by rw [hi]; exact (nextFrame_bounds s h.buffer.cursor).2.1)

theorem inv_decodeWholeBuffer {sub : Int} {ws : List Word} {s t : State} (h : Inv s)
    (ht : decodeWholeBuffer sub ws s = .ok t) : Inv t := by
  by_cases hl : ws.length ≤ s.capacity
  · obtain ⟨u, w, hu, hi, hd, -⟩ := decodeWholeBuffer_answers sub hl
    rw [hu] at ht
    cases ht
    exact inv_decoded (inv_loadBuffer h (loadBuffer_ok hl)) hd (Nat.le_of_eq hi)
  · rw [decodeWholeBuffer, loadBuffer_full (by omega)] at ht; cases ht

theorem inv_verifyAll {s : State} (h : Inv s) : Inv (verifyAll s) := by
  obtain ⟨-, h2, -, -, h5⟩ := verifyAll_spec s
  refine inv_congr h ⟨?_, ?_, ?_⟩ ?_ (fun dt => by rw [h2]; simp) ?_ ?_
  · rw [h5]; exact h.buffer.words
  · rw [h5]; exact h.buffer.cursor
  · rw [h5]; exact h.buffer.room
  · rw [h5]; exact h.memory
  · rw [h5]; exact ⟨rfl, rfl⟩
  · rw [h5]; exact ⟨rfl, rfl, rfl, rfl, rfl⟩

/-- The invariant but for the lock. -/
theorem inv_cycle {s t : State} (h : Inv s) (hc : CycleBy s t) (hb : BufferOk t) (hw : t.buf.wf = true)
    (hp : t.phase ≠ .idle ↔ s.phase ≠ .idle) : Inv t := by
  have hf := hc.frame
  refine ⟨hb, hw, ?_, ?_, ?_, ?_, ?_, ?_⟩
  · rw [hf]; exact h.busLists
  · rw [hf]; exact h.items
  · rw [hf]; exact h.map
  · rw [show t.params = s.params by rw [hf]]
    exact ⟨(hc.counters .fa).trans h.counters.1, (hc.counters .ha).trans h.counters.2.1,
      (hc.counters .hm).trans h.counters.2.2⟩
  · rw [show t.params = s.params by rw [hf]]
    exact ⟨hc.flags.1.trans h.flags.1, hc.flags.2.trans h.flags.2⟩
  · rw [hp, show t.cycleBusy = s.cycleBusy by rw [hf]]; exact h.lock

/-- One phase keeps the invariant. -/
theorem inv_advance {s t : State} (h : Inv s) (ht : advance s = .ok t) : Inv t := by
  by_cases h1 : s.phase = .idle
  · have : advance s = .ok s := by unfold advance; rw [h1]
    rw [this] at ht; cases ht; exact h
  by_cases h2 : s.phase = .verify
  · have : advance s = .ok (verifyPhase s) := by unfold advance; rw [h2]
    rw [this] at ht
    cases ht
    have hv := inv_verifyAll h
    exact ⟨⟨hv.buffer.words, hv.buffer.cursor, hv.buffer.room⟩, hv.memory, hv.busLists, hv.items, hv.map,
      hv.counters, hv.flags, ⟨fun e => (by cases e), fun e => absurd rfl e⟩⟩
  · obtain ⟨u, hu, hc, hp, hb⟩ := advance_running h1 h2
    rw [hu] at ht
    cases ht
    have hcap : t.capacity = s.capacity := by rw [hc.frame]
    have hb' : BufferOk t ∧ t.buf.wf = true := by
      rcases hb with ⟨b1, b2, b3⟩ | hb
      · exact ⟨⟨by rw [b1, b2]; exact h.buffer.words, by rw [b2, b3]; exact h.buffer.cursor,
          by rw [b2, hcap]; exact h.buffer.room⟩, by rw [b1]; exact h.memory⟩
      · exact hb
    exact inv_cycle h hc hb'.1 hb'.2 ⟨fun _ => h1, fun _ => hp⟩

theorem inv_advanceMany {k : Nat} {s t : State} (h : Inv s) (ht : advanceMany k s = .ok t) : Inv t := by
  induction k generalizing s with
  | zero => cases ht; exact h
  | succ k ih =>
    rw [advanceMany] at ht
    split at ht
    · exact ih (inv_advance h ‹_›) ht
    · cases ht

/-- A whole cycle keeps the invariant. -/
theorem inv_wholeCycle {op : Op} {tm : BitVec 64} {s t : State} (h : Inv s) (ht : wholeCycle op tm s = .ok t) :
    Inv t := by
  have hb : Inv (beginCycle op tm s) :=
    ⟨⟨h.buffer.words, h.buffer.cursor, h.buffer.room⟩, h.memory, h.busLists, h.items, h.map, h.counters, h.flags,
      ⟨fun _ => (show Phase.issue ≠ .idle by decide), fun _ => rfl⟩⟩
  exact inv_advanceMany hb ht

/-- A held call keeps the invariant. -/
theorem inv_hold {i : Instr} {s t : State} (h : Inv s) (ht : hold i s = .next t) : Inv t := by
  unfold hold at ht
  split at ht
  · cases ht
    have := inv_advance h ‹_›
    exact inv_registers this this.buffer.cursor rfl
  · cases ht

/-! ### Bus lists, requests, configuration -/

/-- Replacing a bus list by one whose items are as R14 describes them. -/
theorem inv_setBusList {op : Op} {items : List Item} {s : State} (h : Inv s) (hi : ∀ it ∈ items, ItemOk it) :
    Inv (setBusList op items s) := by
  unfold setBusList
  refine ⟨⟨h.buffer.words, h.buffer.cursor, h.buffer.room⟩, h.memory, ?_, ?_, h.map, h.counters, h.flags, h.lock⟩
  · dsimp only
    split
    · exact ⟨keysRising_keyDrop op h.busLists.1, fun p hp => h.busLists.2 p (List.mem_of_mem_filter hp)⟩
    · rename_i hne
      refine ⟨keysRising_keyPut op items h.busLists.1, fun p hp => ?_⟩
      rcases mem_keyPut hp with rfl | hp
      · exact fun e => hne (by simp [show items = [] from e])
      · exact h.busLists.2 p hp
  · dsimp only
    split
    · exact fun p hp => h.items p (List.mem_of_mem_filter hp)
    · intro p hp
      rcases mem_keyPut hp with rfl | hp
      · exact hi
      · exact h.items p hp

theorem busList_items {s : State} (h : Inv s) (op : Op) : ∀ it ∈ busList op s, ItemOk it := by
  intro it hit
  unfold busList at hit
  cases hk : keyGet s.busLists op with
  | none => rw [hk] at hit; cases hit
  | some l =>
    rw [hk] at hit
    exact h.items _ (mem_of_keyGet hk) it hit

theorem inv_appendItem {op : Op} {it : Item} {s : State} (h : Inv s) (hi : ItemOk it) : Inv (appendItem op it s) :=
  inv_setBusList h fun x hx => by
    rcases List.mem_append.1 hx with hx | hx
    · exact busList_items h op x hx
    · rw [List.mem_singleton.1 hx]; exact hi

theorem inv_buildRequest {a f : Byte} {p : List Byte} {ws : List Word} {s t : State} (h : Inv s)
    (ht : buildRequest a f p s = .ok (ws, t)) : Inv t ∧ ws = requestWords a f p := by
  rcases buildRequest_cases a f p s with ⟨hl, u, hu, hh, hf, hw⟩ | ⟨-, hu⟩
  · rw [hu] at ht
    cases ht
    exact ⟨inv_buffer h hh hw (by rw [requestWords_length]; exact hl) hf, rfl⟩
  · rw [hu] at ht; cases ht

theorem inv_appendUnicast {e : Bool} {op : Op} {sub : Int} {a f : Byte} {p : List Byte} {s t : State} (h : Inv s)
    (ht : appendUnicast e op sub a f p s = .ok t) : Inv t := by
  unfold appendUnicast at ht
  split at ht
  · rename_i ch hch
    split at ht
    · obtain ⟨hi, rfl⟩ := inv_buildRequest h ‹_›
      cases ht
      refine inv_appendItem hi ⟨?_, ⟨p, rfl⟩, fun _ => rfl, fun e => (by cases e)⟩
      unfold lookup at hch
      split at hch
      · cases hch
      · dsimp only; omega
    · cases ht
  · cases ht

theorem inv_appendBroadcast {op : Op} {sub : Int} {a f : Byte} {p : List Byte} {s t : State} (h : Inv s)
    (ht : appendBroadcast op sub a f p s = .ok t) : Inv t := by
  unfold appendBroadcast at ht
  split at ht
  · split at ht
    · obtain ⟨hi, rfl⟩ := inv_buildRequest h ‹_›
      cases ht
      have := inv_appendItem (op := op) hi (it := ⟨sub, a, f, true, false, none,
        requestWords a f (embedCounter s.params.bcastField p s.bcastCtr)⟩)
        ⟨fun e => (by cases e), ⟨_, rfl⟩, fun e => (by cases e), fun _ => ⟨rfl, rfl⟩⟩
      exact ⟨⟨this.buffer.words, this.buffer.cursor, this.buffer.room⟩, this.memory, this.busLists, this.items,
        this.map, this.counters, this.flags, this.lock⟩
    · cases ht
  · cases ht

theorem inv_changingBusList {op : Op} {s t : State} {r : Except Fault State} (hk : ∀ u, r = .ok u → Inv u)
    (ht : changingBusList op s r = .next t) : Inv t := by
  unfold changingBusList at ht
  split at ht
  · cases ht
  · exact inv_outcome hk ht

theorem keysRising_buildMap (es : List MapEntry) : keysRising (buildMap es) = true := by
  unfold buildMap
  suffices ∀ m : List (Nat × ILCMap), keysRising m = true →
      keysRising (es.foldl (fun m e => keyPut m (mapKey e.subnet e.address) e.channel) m) = true from this [] rfl
  induction es with
  | nil => exact fun m h => h
  | cons e es ih => exact fun m h => ih _ (keysRising_keyPut _ _ h)

theorem inv_loadConfig {es : List MapEntry} {s t : State} (h : Inv s) (ht : loadConfig es s = .ok t) : Inv t := by
  unfold loadConfig at ht
  split at ht
  · cases ht
    exact ⟨⟨h.buffer.words, h.buffer.cursor, h.buffer.room⟩, h.memory, h.busLists, h.items, keysRising_buildMap es,
      ⟨by simp, by simp, by simp⟩, h.flags, h.lock⟩
  · cases ht

end Sys2Proof.Machine
end

