-- ==== Sys2Proof/Laws/Params.lean ====
section
/-! SUPPORT. What no shared operation changes: the parameters and the buffer's capacity (R19, R10). -/
namespace Sys2Proof.Machine

open Sys2Proof.Safety

/-- `t` has the parameters and the capacity of `s`. -/
def Fixed (s t : State) : Prop := t.params = s.params ∧ t.capacity = s.capacity

theorem Fixed.trans {s t u : State} (h : Fixed s t) (g : Fixed t u) : Fixed s u := ⟨g.1.trans h.1, g.2.trans h.2⟩

theorem fixed_refl (s : State) : Fixed s s := ⟨rfl, rfl⟩

theorem fixed_outcome {s t : State} {e : Except Fault State} (hk : ∀ u, e = .ok u → Fixed s u)
    (ht : outcome e = .next t) : Fixed s t := by
  cases e with
  | error f => cases ht
  | ok u => cases ht; exact hk _ rfl

theorem fixed_answer {α : Type} {mk : α → Ret} {s t : State} {e : Except Fault (α × State)}
    (hk : ∀ v u, e = .ok (v, u) → Fixed s u) (ht : answer mk e = .next t) : Fixed s t := by
  cases e with
  | error f => cases ht
  | ok x =>
    cases ht
    have g := hk _ _ rfl
    exact g

/-! ### The buffer's operations -/

theorem fixed_putWord {w : Word} {s t : State} (h : putWord w s = .ok t) : Fixed s t := by
  unfold putWord at h
  split at h
  · cases h
  · cases h; exact ⟨rfl, rfl⟩

theorem fixed_putWords {ws : List Word} {s t : State} (h : putWords ws s = .ok t) : Fixed s t := by
  induction ws generalizing s with
  | nil => cases h; exact ⟨rfl, rfl⟩
  | cons w ws ih =>
    rw [putWords] at h
    split at h
    · exact (fixed_putWord ‹_›).trans (ih h)
    · cases h

theorem fixed_loadBuffer {ws : List Word} {s t : State} (h : loadBuffer ws s = .ok t) : Fixed s t := by
  unfold loadBuffer at h
  split at h
  · cases h
  · cases h; exact ⟨rfl, rfl⟩

theorem fixed_moved {s t : State} (h : MovedBy s t) : Fixed s t := by
  obtain ⟨k, rfl, -⟩ := h; exact ⟨rfl, rfl⟩

theorem fixed_writeCRC {n : Nat} {s t : State} (h : writeCRC n s = .ok t) : Fixed s t := by
  unfold writeCRC at h
  split at h
  · cases h
  · split at h
    · cases h
    · split at h
      · exact fixed_putWords h
      · cases h

theorem fixed_checkFrameCRC {a n : Nat} {b : Bool} {s t : State} (h : checkFrameCRC a n s = .ok (b, t)) :
    Fixed s t := by
  unfold checkFrameCRC at h
  split at h
  · cases h; exact ⟨rfl, rfl⟩
  · split at h
    · cases h
    · split at h
      · cases h; exact ⟨rfl, rfl⟩
      · cases h

/-! ### Requests and configuration -/

theorem fixed_buildRequest {a f : Byte} {p : List Byte} {ws : List Word} {s t : State}
    (h : buildRequest a f p s = .ok (ws, t)) : Fixed s t := by
  rcases buildRequest_cases a f p s with ⟨-, u, hu, -, hf, -⟩ | ⟨-, hu⟩
  · rw [hu] at h
    cases h
    rw [hf]; exact ⟨rfl, rfl⟩
  · rw [hu] at h; cases h

theorem fixed_appendUnicast {e : Bool} {op : Op} {sub : Int} {a f : Byte} {p : List Byte} {s t : State}
    (h : appendUnicast e op sub a f p s = .ok t) : Fixed s t := by
  unfold appendUnicast at h
  split at h
  · split at h
    · rename_i hb
      have g := fixed_buildRequest hb
      cases h; exact g
    · cases h
  · cases h

theorem fixed_appendBroadcast {op : Op} {sub : Int} {a f : Byte} {p : List Byte} {s t : State}
    (h : appendBroadcast op sub a f p s = .ok t) : Fixed s t := by
  unfold appendBroadcast at h
  split at h
  · split at h
    · rename_i hb
      have g := fixed_buildRequest hb
      cases h; exact g
    · cases h
  · cases h

theorem fixed_changingBusList {op : Op} {s t : State} {r : Except Fault State} (hk : ∀ u, r = .ok u → Fixed s u)
    (h : changingBusList op s r = .next t) : Fixed s t := by
  unfold changingBusList at h
  split at h
  · cases h
  · exact fixed_outcome hk h

theorem fixed_loadConfig {es : List MapEntry} {s t : State} (h : loadConfig es s = .ok t) : Fixed s t := by
  unfold loadConfig at h
  split at h
  · cases h; exact ⟨rfl, rfl⟩
  · cases h

/-! ### Handlers, the validator, the sequencer -/

theorem fixed_read {s t : State} (h : ReadBy s t) : Fixed s t := by
  obtain ⟨k, hh, -⟩ := h
  rw [hh.frame]; exact ⟨rfl, rfl⟩

theorem fixed_respond {fn : Nat} {r : Reader} {f : Routed} {s t : State}
    (hr : ∀ {u v}, r f s = .ok (v, u) → ReadBy s u) (h : respond fn r f s = .ok t) : Fixed s t := by
  unfold respond at h
  split at h
  · split at h
    · rename_i hb
      have g := fixed_read (hr hb)
      cases h; exact g
    · cases h
  · cases h; exact ⟨rfl, rfl⟩

theorem fixed_respondException {f : Routed} {s t : State} (h : respondException f s = .ok t) : Fixed s t := by
  unfold respondException at h
  split at h
  · split at h
    · rename_i hb
      have g := fixed_moved (movedBy_getByte hb)
      cases h; exact g
    · cases h
  · cases h; exact ⟨rfl, rfl⟩

theorem fixed_dispatch {f : Routed} {fn : Byte} {s t : State} (h : dispatchFrame f fn s = .ok t) : Fixed s t := by
  unfold dispatchFrame at h
  split at h
  · exact fixed_respond readBy_handlerOf h
  · split at h
    · exact fixed_respondException h
    · cases h; exact ⟨rfl, rfl⟩

theorem fixed_decodedBy {s t : State} {w : Nat} (h : DecodedBy s t w) : Fixed s t := by
  rw [h.frame]; exact ⟨rfl, rfl⟩

theorem fixed_decrement (ch : ILCMap) (s : State) : Fixed s (decrementExpected ch s) :=
  fixed_decodedBy (decodedBy_bump ch (-1) s)

theorem fixed_routeFrame {sub : Int} {s t : State} (h : routeFrame sub s = .ok t) : Fixed s t := by
  unfold routeFrame at h
  split at h
  · cases h
  · have f1 := fixed_moved (movedBy_getByte ‹_›)
    split at h
    · cases h
    · have f2 := f1.trans (fixed_moved (movedBy_getByte ‹_›))
      dsimp only at h
      split at h
      · cases h; exact f2
      · cases h; exact f2
      · split at h
        · rename_i hd
          have g := fixed_dispatch hd
          cases h
          have g2 := (fixed_decrement _ _).trans g
          exact f2.trans g2
        · cases h

theorem fixed_decodeOneFrame {sub : Int} {s t : State} (h : decodeOneFrame sub s = .ok t) : Fixed s t := by
  unfold decodeOneFrame at h
  dsimp only at h
  split at h
  · cases h; exact ⟨rfl, rfl⟩
  · split at h
    · cases h; exact ⟨rfl, rfl⟩
    · split at h
      · cases h
      · rename_i u hc
        have f1 := fixed_checkFrameCRC hc
        split at h
        · have g := fixed_routeFrame h
          exact f1.trans g
        · cases h
          have g := fixed_decodedBy (decodedBy_unverified sub (raise .invalidCRC (-1) { u with ts := tsAt u u.tail }))
          exact f1.trans g

theorem fixed_decodeFrames {sub : Int} {k : Nat} {s t : State} (h : decodeFrames sub k s = .ok t) : Fixed s t := by
  induction k generalizing s with
  | zero => cases h; exact ⟨rfl, rfl⟩
  | succ k ih =>
    rw [decodeFrames] at h
    split at h
    · cases h; exact ⟨rfl, rfl⟩
    · split at h
      · exact (fixed_decodeOneFrame ‹_›).trans (ih h)
      · cases h

theorem fixed_decodeWholeBuffer {sub : Int} {ws : List Word} {s t : State} (h : decodeWholeBuffer sub ws s = .ok t) :
    Fixed s t := by
  unfold decodeWholeBuffer at h
  split at h
  · exact (fixed_loadBuffer ‹_›).trans (fixed_decodeFrames h)
  · cases h

theorem fixed_verifyAll (s : State) : Fixed s (verifyAll s) := by
  rw [(verifyAll_spec s).2.2.2.2]; exact ⟨rfl, rfl⟩

theorem fixed_advance {s t : State} (h : advance s = .ok t) : Fixed s t := by
  by_cases h1 : s.phase = .idle
  · have : advance s = .ok s := by unfold advance; rw [h1]
    rw [this] at h; cases h; exact ⟨rfl, rfl⟩
  by_cases h2 : s.phase = .verify
  · have : advance s = .ok (verifyPhase s) := by unfold advance; rw [h2]
    rw [this] at h; cases h; exact fixed_verifyAll s
  · obtain ⟨u, hu, hc, -⟩ := advance_running h1 h2
    rw [hu] at h
    cases h
    rw [hc.frame]; exact ⟨rfl, rfl⟩

theorem fixed_hold {i : Instr} {s t : State} (h : hold i s = .next t) : Fixed s t := by
  unfold hold at h
  split at h
  · rename_i ha
    have g := fixed_advance ha
    cases h; exact g
  · cases h

theorem fixed_advanceMany {k : Nat} {s t : State} (h : advanceMany k s = .ok t) : Fixed s t := by
  induction k generalizing s with
  | zero => cases h; exact ⟨rfl, rfl⟩
  | succ k ih =>
    rw [advanceMany] at h
    split at h
    · exact (fixed_advance ‹_›).trans (ih h)
    · cases h

theorem fixed_wholeCycle {op : Op} {tm : BitVec 64} {s t : State} (h : wholeCycle op tm s = .ok t) : Fixed s t :=
  fixed_advanceMany (s := beginCycle op tm s) h

end Sys2Proof.Machine
end

