-- ==== Sys2Proof/Laws/PerInstr.lean ====
section
/-! SUPPORT. Statements about every instruction as syntax, one lemma for each constructor. -/
namespace Sys2Proof.Laws

/-- The encoding of the instruction has at least one word, so a pending call moves the head of the queue. -/
def EncodeNonempty.Statement (i : Instr) : Prop := encode i ≠ []

theorem EncodeNonempty.txd (b : Byte) : EncodeNonempty.Statement (.txd b) := List.cons_ne_nil _ _
theorem EncodeNonempty.rxd (b : Byte) : EncodeNonempty.Statement (.rxd b) := List.cons_ne_nil _ _
theorem EncodeNonempty.tsw (t : Byte) : EncodeNonempty.Statement (.tsw t) := List.cons_ne_nil _ _
theorem EncodeNonempty.eof : EncodeNonempty.Statement .eof := List.cons_ne_nil _ _
theorem EncodeNonempty.classTs (w : Word) : EncodeNonempty.Statement (.classTs w) := List.cons_ne_nil _ _
theorem EncodeNonempty.classEofw (w : Word) : EncodeNonempty.Statement (.classEofw w) := List.cons_ne_nil _ _
theorem EncodeNonempty.classData (w : Word) : EncodeNonempty.Statement (.classData w) := by
  show (if Machine.tag w = 0#4 then call 0x0F00 (encBits w) else [w]) ≠ []
  split <;> exact List.cons_ne_nil _ _
theorem EncodeNonempty.cwLength (n : Nat) : EncodeNonempty.Statement (.cwLength n) := List.cons_ne_nil _ _
theorem EncodeNonempty.cwSwTrigger : EncodeNonempty.Statement .cwSwTrigger := List.cons_ne_nil _ _
theorem EncodeNonempty.cwDelay (d : Nat) : EncodeNonempty.Statement (.cwDelay d) := List.cons_ne_nil _ _
theorem EncodeNonempty.cwTimestamp : EncodeNonempty.Statement .cwTimestamp := List.cons_ne_nil _ _
theorem EncodeNonempty.cwTriggerIrq : EncodeNonempty.Statement .cwTriggerIrq := List.cons_ne_nil _ _
theorem EncodeNonempty.rspFaReportServerID (f : Routed) : EncodeNonempty.Statement (.rspFaReportServerID f) :=
  List.cons_ne_nil _ _
theorem EncodeNonempty.rspFaReportServerStatus (f : Routed) : EncodeNonempty.Statement (.rspFaReportServerStatus f) :=
  List.cons_ne_nil _ _
theorem EncodeNonempty.rspFaChangeILCMode (f : Routed) : EncodeNonempty.Statement (.rspFaChangeILCMode f) :=
  List.cons_ne_nil _ _
theorem EncodeNonempty.rspFaSetBoostValveDCAGains (f : Routed) : EncodeNonempty.Statement (.rspFaSetBoostValveDCAGains f) :=
  List.cons_ne_nil _ _
theorem EncodeNonempty.rspFaReadBoostValveDCAGains (f : Routed) : EncodeNonempty.Statement (.rspFaReadBoostValveDCAGains f) :=
  List.cons_ne_nil _ _
theorem EncodeNonempty.rspFaForceDemand (f : Routed) : EncodeNonempty.Statement (.rspFaForceDemand f) :=
  List.cons_ne_nil _ _
theorem EncodeNonempty.rspFaPneumaticForceStatus (f : Routed) : EncodeNonempty.Statement (.rspFaPneumaticForceStatus f) :=
  List.cons_ne_nil _ _
theorem EncodeNonempty.rspFaSetADCScanRate (f : Routed) : EncodeNonempty.Statement (.rspFaSetADCScanRate f) :=
  List.cons_ne_nil _ _
theorem EncodeNonempty.rspFaSetADCChannelOffsetAndSensitivity (f : Routed) : EncodeNonempty.Statement (.rspFaSetADCChannelOffsetAndSensitivity f) :=
  List.cons_ne_nil _ _
theorem EncodeNonempty.rspFaReset (f : Routed) : EncodeNonempty.Statement (.rspFaReset f) := List.cons_ne_nil _ _
theorem EncodeNonempty.rspFaReadCalibration (f : Routed) : EncodeNonempty.Statement (.rspFaReadCalibration f) :=
  List.cons_ne_nil _ _
theorem EncodeNonempty.rspFaReportDCAPressure (f : Routed) : EncodeNonempty.Statement (.rspFaReportDCAPressure f) :=
  List.cons_ne_nil _ _
theorem EncodeNonempty.rspFaReportDCAID (f : Routed) : EncodeNonempty.Statement (.rspFaReportDCAID f) :=
  List.cons_ne_nil _ _
theorem EncodeNonempty.rspFaReportDCAStatus (f : Routed) : EncodeNonempty.Statement (.rspFaReportDCAStatus f) :=
  List.cons_ne_nil _ _
theorem EncodeNonempty.rspHaReportServerID (f : Routed) : EncodeNonempty.Statement (.rspHaReportServerID f) :=
  List.cons_ne_nil _ _
theorem EncodeNonempty.rspHaReportServerStatus (f : Routed) : EncodeNonempty.Statement (.rspHaReportServerStatus f) :=
  List.cons_ne_nil _ _
theorem EncodeNonempty.rspHaChangeILCMode (f : Routed) : EncodeNonempty.Statement (.rspHaChangeILCMode f) :=
  List.cons_ne_nil _ _
theorem EncodeNonempty.rspHaStepMotor (f : Routed) : EncodeNonempty.Statement (.rspHaStepMotor f) :=
  List.cons_ne_nil _ _
theorem EncodeNonempty.rspHaElectromechanicalForceAndStatus (f : Routed) : EncodeNonempty.Statement (.rspHaElectromechanicalForceAndStatus f) :=
  List.cons_ne_nil _ _
theorem EncodeNonempty.rspHaSetADCScanRate (f : Routed) : EncodeNonempty.Statement (.rspHaSetADCScanRate f) :=
  List.cons_ne_nil _ _
theorem EncodeNonempty.rspHaSetADCChannelOffsetAndSensitivity (f : Routed) : EncodeNonempty.Statement (.rspHaSetADCChannelOffsetAndSensitivity f) :=
  List.cons_ne_nil _ _
theorem EncodeNonempty.rspHaReset (f : Routed) : EncodeNonempty.Statement (.rspHaReset f) := List.cons_ne_nil _ _
theorem EncodeNonempty.rspHaReadCalibration (f : Routed) : EncodeNonempty.Statement (.rspHaReadCalibration f) :=
  List.cons_ne_nil _ _
theorem EncodeNonempty.rspHmReportServerID (f : Routed) : EncodeNonempty.Statement (.rspHmReportServerID f) :=
  List.cons_ne_nil _ _
theorem EncodeNonempty.rspHmReportServerStatus (f : Routed) : EncodeNonempty.Statement (.rspHmReportServerStatus f) :=
  List.cons_ne_nil _ _
theorem EncodeNonempty.rspHmChangeILCMode (f : Routed) : EncodeNonempty.Statement (.rspHmChangeILCMode f) :=
  List.cons_ne_nil _ _
theorem EncodeNonempty.rspHmReset (f : Routed) : EncodeNonempty.Statement (.rspHmReset f) := List.cons_ne_nil _ _
theorem EncodeNonempty.rspHmReportHMPressure (f : Routed) : EncodeNonempty.Statement (.rspHmReportHMPressure f) :=
  List.cons_ne_nil _ _
theorem EncodeNonempty.rspHmReportHMMezzanineID (f : Routed) : EncodeNonempty.Statement (.rspHmReportHMMezzanineID f) :=
  List.cons_ne_nil _ _
theorem EncodeNonempty.rspHmReportHMMezzanineStatus (f : Routed) : EncodeNonempty.Statement (.rspHmReportHMMezzanineStatus f) :=
  List.cons_ne_nil _ _
theorem EncodeNonempty.rspHmReportLVDT (f : Routed) : EncodeNonempty.Statement (.rspHmReportLVDT f) :=
  List.cons_ne_nil _ _
theorem EncodeNonempty.excFa145 (f : Routed) : EncodeNonempty.Statement (.excFa145 f) := List.cons_ne_nil _ _
theorem EncodeNonempty.excFa146 (f : Routed) : EncodeNonempty.Statement (.excFa146 f) := List.cons_ne_nil _ _
theorem EncodeNonempty.excFa193 (f : Routed) : EncodeNonempty.Statement (.excFa193 f) := List.cons_ne_nil _ _
theorem EncodeNonempty.excFa201 (f : Routed) : EncodeNonempty.Statement (.excFa201 f) := List.cons_ne_nil _ _
theorem EncodeNonempty.excFa202 (f : Routed) : EncodeNonempty.Statement (.excFa202 f) := List.cons_ne_nil _ _
theorem EncodeNonempty.excFa203 (f : Routed) : EncodeNonempty.Statement (.excFa203 f) := List.cons_ne_nil _ _
theorem EncodeNonempty.excFa204 (f : Routed) : EncodeNonempty.Statement (.excFa204 f) := List.cons_ne_nil _ _
theorem EncodeNonempty.excFa208 (f : Routed) : EncodeNonempty.Statement (.excFa208 f) := List.cons_ne_nil _ _
theorem EncodeNonempty.excFa209 (f : Routed) : EncodeNonempty.Statement (.excFa209 f) := List.cons_ne_nil _ _
theorem EncodeNonempty.excFa235 (f : Routed) : EncodeNonempty.Statement (.excFa235 f) := List.cons_ne_nil _ _
theorem EncodeNonempty.excFa238 (f : Routed) : EncodeNonempty.Statement (.excFa238 f) := List.cons_ne_nil _ _
theorem EncodeNonempty.excFa247 (f : Routed) : EncodeNonempty.Statement (.excFa247 f) := List.cons_ne_nil _ _
theorem EncodeNonempty.excFa248 (f : Routed) : EncodeNonempty.Statement (.excFa248 f) := List.cons_ne_nil _ _
theorem EncodeNonempty.excFa249 (f : Routed) : EncodeNonempty.Statement (.excFa249 f) := List.cons_ne_nil _ _
theorem EncodeNonempty.excHa145 (f : Routed) : EncodeNonempty.Statement (.excHa145 f) := List.cons_ne_nil _ _
theorem EncodeNonempty.excHa146 (f : Routed) : EncodeNonempty.Statement (.excHa146 f) := List.cons_ne_nil _ _
theorem EncodeNonempty.excHa193 (f : Routed) : EncodeNonempty.Statement (.excHa193 f) := List.cons_ne_nil _ _
theorem EncodeNonempty.excHa194 (f : Routed) : EncodeNonempty.Statement (.excHa194 f) := List.cons_ne_nil _ _
theorem EncodeNonempty.excHa195 (f : Routed) : EncodeNonempty.Statement (.excHa195 f) := List.cons_ne_nil _ _
theorem EncodeNonempty.excHa208 (f : Routed) : EncodeNonempty.Statement (.excHa208 f) := List.cons_ne_nil _ _
theorem EncodeNonempty.excHa209 (f : Routed) : EncodeNonempty.Statement (.excHa209 f) := List.cons_ne_nil _ _
theorem EncodeNonempty.excHa235 (f : Routed) : EncodeNonempty.Statement (.excHa235 f) := List.cons_ne_nil _ _
theorem EncodeNonempty.excHa238 (f : Routed) : EncodeNonempty.Statement (.excHa238 f) := List.cons_ne_nil _ _
theorem EncodeNonempty.excHm145 (f : Routed) : EncodeNonempty.Statement (.excHm145 f) := List.cons_ne_nil _ _
theorem EncodeNonempty.excHm146 (f : Routed) : EncodeNonempty.Statement (.excHm146 f) := List.cons_ne_nil _ _
theorem EncodeNonempty.excHm193 (f : Routed) : EncodeNonempty.Statement (.excHm193 f) := List.cons_ne_nil _ _
theorem EncodeNonempty.excHm235 (f : Routed) : EncodeNonempty.Statement (.excHm235 f) := List.cons_ne_nil _ _
theorem EncodeNonempty.excHm247 (f : Routed) : EncodeNonempty.Statement (.excHm247 f) := List.cons_ne_nil _ _
theorem EncodeNonempty.excHm248 (f : Routed) : EncodeNonempty.Statement (.excHm248 f) := List.cons_ne_nil _ _
theorem EncodeNonempty.excHm249 (f : Routed) : EncodeNonempty.Statement (.excHm249 f) := List.cons_ne_nil _ _
theorem EncodeNonempty.excHm250 (f : Routed) : EncodeNonempty.Statement (.excHm250 f) := List.cons_ne_nil _ _
theorem EncodeNonempty.reqReportServerID (op : Op) (s : Int) (a : Byte) (p : List Byte) : EncodeNonempty.Statement (.reqReportServerID op s a p) :=
  List.cons_ne_nil _ _
theorem EncodeNonempty.reqReportServerStatus (op : Op) (s : Int) (a : Byte) (p : List Byte) : EncodeNonempty.Statement (.reqReportServerStatus op s a p) :=
  List.cons_ne_nil _ _
theorem EncodeNonempty.reqChangeILCMode (op : Op) (s : Int) (a : Byte) (p : List Byte) : EncodeNonempty.Statement (.reqChangeILCMode op s a p) :=
  List.cons_ne_nil _ _
theorem EncodeNonempty.reqSetADCScanRate (op : Op) (s : Int) (a : Byte) (p : List Byte) : EncodeNonempty.Statement (.reqSetADCScanRate op s a p) :=
  List.cons_ne_nil _ _
theorem EncodeNonempty.reqSetADCChannelOffsetAndSensitivity (op : Op) (s : Int) (a : Byte) (p : List Byte) : EncodeNonempty.Statement (.reqSetADCChannelOffsetAndSensitivity op s a p) :=
  List.cons_ne_nil _ _
theorem EncodeNonempty.reqReset (op : Op) (s : Int) (a : Byte) (p : List Byte) : EncodeNonempty.Statement (.reqReset op s a p) :=
  List.cons_ne_nil _ _
theorem EncodeNonempty.reqReadCalibration (op : Op) (s : Int) (a : Byte) (p : List Byte) : EncodeNonempty.Statement (.reqReadCalibration op s a p) :=
  List.cons_ne_nil _ _
theorem EncodeNonempty.reqReportDCAPressure (op : Op) (s : Int) (a : Byte) (p : List Byte) : EncodeNonempty.Statement (.reqReportDCAPressure op s a p) :=
  List.cons_ne_nil _ _
theorem EncodeNonempty.reqReportDCAID (op : Op) (s : Int) (a : Byte) (p : List Byte) : EncodeNonempty.Statement (.reqReportDCAID op s a p) :=
  List.cons_ne_nil _ _
theorem EncodeNonempty.reqReportDCAStatus (op : Op) (s : Int) (a : Byte) (p : List Byte) : EncodeNonempty.Statement (.reqReportDCAStatus op s a p) :=
  List.cons_ne_nil _ _
theorem EncodeNonempty.reqSetBoostValveDCAGains (op : Op) (s : Int) (a : Byte) (p : List Byte) : EncodeNonempty.Statement (.reqSetBoostValveDCAGains op s a p) :=
  List.cons_ne_nil _ _
theorem EncodeNonempty.reqReadBoostValveDCAGains (op : Op) (s : Int) (a : Byte) (p : List Byte) : EncodeNonempty.Statement (.reqReadBoostValveDCAGains op s a p) :=
  List.cons_ne_nil _ _
theorem EncodeNonempty.reqStepMotor (op : Op) (s : Int) (a : Byte) (p : List Byte) : EncodeNonempty.Statement (.reqStepMotor op s a p) :=
  List.cons_ne_nil _ _
theorem EncodeNonempty.reqStepMotorBroadcast (op : Op) (s : Int) (p : List Byte) : EncodeNonempty.Statement (.reqStepMotorBroadcast op s p) :=
  List.cons_ne_nil _ _
theorem EncodeNonempty.reqForceDemandSingle (op : Op) (s : Int) (a : Byte) (p : List Byte) : EncodeNonempty.Statement (.reqForceDemandSingle op s a p) :=
  List.cons_ne_nil _ _
theorem EncodeNonempty.reqForceDemandDual (op : Op) (s : Int) (a : Byte) (p : List Byte) : EncodeNonempty.Statement (.reqForceDemandDual op s a p) :=
  List.cons_ne_nil _ _
theorem EncodeNonempty.reqForceDemandBroadcast (op : Op) (s : Int) (p : List Byte) : EncodeNonempty.Statement (.reqForceDemandBroadcast op s p) :=
  List.cons_ne_nil _ _
theorem EncodeNonempty.reqPneumaticForceStatus (op : Op) (s : Int) (a : Byte) (p : List Byte) : EncodeNonempty.Statement (.reqPneumaticForceStatus op s a p) :=
  List.cons_ne_nil _ _
theorem EncodeNonempty.reqElectromechanicalForceAndStatus (op : Op) (s : Int) (a : Byte) (p : List Byte) : EncodeNonempty.Statement (.reqElectromechanicalForceAndStatus op s a p) :=
  List.cons_ne_nil _ _
theorem EncodeNonempty.reqFreezeSensorValuesElectromechanical (op : Op) (s : Int) (p : List Byte) : EncodeNonempty.Statement (.reqFreezeSensorValuesElectromechanical op s p) :=
  List.cons_ne_nil _ _
theorem EncodeNonempty.reqFreezeSensorValuesPneumatic (op : Op) (s : Int) (p : List Byte) : EncodeNonempty.Statement (.reqFreezeSensorValuesPneumatic op s p) :=
  List.cons_ne_nil _ _
theorem EncodeNonempty.reqReportLVDT (op : Op) (s : Int) (a : Byte) (p : List Byte) : EncodeNonempty.Statement (.reqReportLVDT op s a p) :=
  List.cons_ne_nil _ _
theorem EncodeNonempty.reqNopReportLVDT (op : Op) (s : Int) (a : Byte) (p : List Byte) : EncodeNonempty.Statement (.reqNopReportLVDT op s a p) :=
  List.cons_ne_nil _ _
theorem EncodeNonempty.reqReportHMPressure (op : Op) (s : Int) (a : Byte) (p : List Byte) : EncodeNonempty.Statement (.reqReportHMPressure op s a p) :=
  List.cons_ne_nil _ _
theorem EncodeNonempty.reqReportHMMezzanineID (op : Op) (s : Int) (a : Byte) (p : List Byte) : EncodeNonempty.Statement (.reqReportHMMezzanineID op s a p) :=
  List.cons_ne_nil _ _
theorem EncodeNonempty.reqReportHMMezzanineStatus (op : Op) (s : Int) (a : Byte) (p : List Byte) : EncodeNonempty.Statement (.reqReportHMMezzanineStatus op s a p) :=
  List.cons_ne_nil _ _
theorem EncodeNonempty.reset : EncodeNonempty.Statement .reset := List.cons_ne_nil _ _
theorem EncodeNonempty.load (ws : List Word) : EncodeNonempty.Statement (.load ws) := List.cons_ne_nil _ _
theorem EncodeNonempty.writeU8 (v : Int) : EncodeNonempty.Statement (.writeU8 v) := List.cons_ne_nil _ _
theorem EncodeNonempty.writeI8 (v : Int) : EncodeNonempty.Statement (.writeI8 v) := List.cons_ne_nil _ _
theorem EncodeNonempty.writeU16 (v : Int) : EncodeNonempty.Statement (.writeU16 v) := List.cons_ne_nil _ _
theorem EncodeNonempty.writeI16 (v : Int) : EncodeNonempty.Statement (.writeI16 v) := List.cons_ne_nil _ _
theorem EncodeNonempty.writeI24 (v : Int) : EncodeNonempty.Statement (.writeI24 v) := List.cons_ne_nil _ _
theorem EncodeNonempty.writeU32 (v : Int) : EncodeNonempty.Statement (.writeU32 v) := List.cons_ne_nil _ _
theorem EncodeNonempty.writeI32 (v : Int) : EncodeNonempty.Statement (.writeI32 v) := List.cons_ne_nil _ _
theorem EncodeNonempty.writeSGL (p : F32) : EncodeNonempty.Statement (.writeSGL p) := List.cons_ne_nil _ _
theorem EncodeNonempty.readU8 : EncodeNonempty.Statement .readU8 := List.cons_ne_nil _ _
theorem EncodeNonempty.readI8 : EncodeNonempty.Statement .readI8 := List.cons_ne_nil _ _
theorem EncodeNonempty.readU16 : EncodeNonempty.Statement .readU16 := List.cons_ne_nil _ _
theorem EncodeNonempty.readI16 : EncodeNonempty.Statement .readI16 := List.cons_ne_nil _ _
theorem EncodeNonempty.readI24 : EncodeNonempty.Statement .readI24 := List.cons_ne_nil _ _
theorem EncodeNonempty.readU32 : EncodeNonempty.Statement .readU32 := List.cons_ne_nil _ _
theorem EncodeNonempty.readI32 : EncodeNonempty.Statement .readI32 := List.cons_ne_nil _ _
theorem EncodeNonempty.readSGL : EncodeNonempty.Statement .readSGL := List.cons_ne_nil _ _
theorem EncodeNonempty.writeEndOfFrame : EncodeNonempty.Statement .writeEndOfFrame := List.cons_ne_nil _ _
theorem EncodeNonempty.writeSoftwareTrigger : EncodeNonempty.Statement .writeSoftwareTrigger := List.cons_ne_nil _ _
theorem EncodeNonempty.writeDelay (d : Nat) : EncodeNonempty.Statement (.writeDelay d) := List.cons_ne_nil _ _
theorem EncodeNonempty.writeTimestamp : EncodeNonempty.Statement .writeTimestamp := List.cons_ne_nil _ _
theorem EncodeNonempty.writeTriggerIRQ : EncodeNonempty.Statement .writeTriggerIRQ := List.cons_ne_nil _ _
theorem EncodeNonempty.writeLength (n : Nat) : EncodeNonempty.Statement (.writeLength n) := List.cons_ne_nil _ _
theorem EncodeNonempty.endOfBuffer : EncodeNonempty.Statement .endOfBuffer := List.cons_ne_nil _ _
theorem EncodeNonempty.endOfFrame : EncodeNonempty.Statement .endOfFrame := List.cons_ne_nil _ _
theorem EncodeNonempty.skipToNextFrame : EncodeNonempty.Statement .skipToNextFrame := List.cons_ne_nil _ _
theorem EncodeNonempty.readTimestamp : EncodeNonempty.Statement .readTimestamp := List.cons_ne_nil _ _
theorem EncodeNonempty.readCRC : EncodeNonempty.Statement .readCRC := List.cons_ne_nil _ _
theorem EncodeNonempty.crc16 (bytes : List Byte) : EncodeNonempty.Statement (.crc16 bytes) := List.cons_ne_nil _ _
theorem EncodeNonempty.calculateCRC (start length : Nat) : EncodeNonempty.Statement (.calculateCRC start length) :=
  List.cons_ne_nil _ _
theorem EncodeNonempty.writeCRC (length : Nat) : EncodeNonempty.Statement (.writeCRC length) := List.cons_ne_nil _ _
theorem EncodeNonempty.checkFrameCRC (fs n : Nat) : EncodeNonempty.Statement (.checkFrameCRC fs n) :=
  List.cons_ne_nil _ _
theorem EncodeNonempty.encodeRequest (a f : Byte) (payload : List Byte) : EncodeNonempty.Statement (.encodeRequest a f payload) :=
  List.cons_ne_nil _ _
theorem EncodeNonempty.addUnicast (op : Op) (s : Int) (a f : Byte) (payload : List Byte) : EncodeNonempty.Statement (.addUnicast op s a f payload) :=
  List.cons_ne_nil _ _
theorem EncodeNonempty.addBroadcast (op : Op) (s : Int) (a f : Byte) (payload : List Byte) : EncodeNonempty.Statement (.addBroadcast op s a f payload) :=
  List.cons_ne_nil _ _
theorem EncodeNonempty.lookup (s : Int) (a : Byte) : EncodeNonempty.Statement (.lookup s a) := List.cons_ne_nil _ _
theorem EncodeNonempty.actuatorIdOf (dt : DeviceType) (i : Int) : EncodeNonempty.Statement (.actuatorIdOf dt i) :=
  List.cons_ne_nil _ _
theorem EncodeNonempty.decodeBuffer (s : Int) (ws : List Word) : EncodeNonempty.Statement (.decodeBuffer s ws) :=
  List.cons_ne_nil _ _
theorem EncodeNonempty.decodeFrame (s : Int) : EncodeNonempty.Statement (.decodeFrame s) := List.cons_ne_nil _ _
theorem EncodeNonempty.dispatch (f : Routed) (fn : Byte) : EncodeNonempty.Statement (.dispatch f fn) :=
  List.cons_ne_nil _ _
theorem EncodeNonempty.clearBusList (op : Op) : EncodeNonempty.Statement (.clearBusList op) := List.cons_ne_nil _ _
theorem EncodeNonempty.runCycle (op : Op) (t : BitVec 64) : EncodeNonempty.Statement (.runCycle op t) :=
  List.cons_ne_nil _ _
theorem EncodeNonempty.verifyResponses : EncodeNonempty.Statement .verifyResponses := List.cons_ne_nil _ _
theorem EncodeNonempty.raise (kind : WarnKind) (aid : Int) : EncodeNonempty.Statement (.raise kind aid) :=
  List.cons_ne_nil _ _
theorem EncodeNonempty.loadConfiguration (map : List MapEntry) : EncodeNonempty.Statement (.loadConfiguration map) :=
  List.cons_ne_nil _ _

end Sys2Proof.Laws
end

