-- ==== Sys2Proof/Laws/State.lean ====
section
/-! SUPPORT. One lemma for each field of the state under each named update, and one step of a run. -/
namespace Sys2Proof.Machine

/-! ### emit -/

@[simp] theorem emit_buf (s : State) (e : Event) : (s.emit e).buf = s.buf := rfl
@[simp] theorem emit_len (s : State) (e : Event) : (s.emit e).len = s.len := rfl
@[simp] theorem emit_idx (s : State) (e : Event) : (s.emit e).idx = s.idx := rfl
@[simp] theorem emit_capacity (s : State) (e : Event) : (s.emit e).capacity = s.capacity := rfl
@[simp] theorem emit_bcastCtr (s : State) (e : Event) : (s.emit e).bcastCtr = s.bcastCtr := rfl
@[simp] theorem emit_busLists (s : State) (e : Event) : (s.emit e).busLists = s.busLists := rfl
@[simp] theorem emit_faExp (s : State) (e : Event) : (s.emit e).faExp = s.faExp := rfl
@[simp] theorem emit_haExp (s : State) (e : Event) : (s.emit e).haExp = s.haExp := rfl
@[simp] theorem emit_hmExp (s : State) (e : Event) : (s.emit e).hmExp = s.hmExp := rfl
@[simp] theorem emit_ilcMap (s : State) (e : Event) : (s.emit e).ilcMap = s.ilcMap := rfl
@[simp] theorem emit_configured (s : State) (e : Event) : (s.emit e).configured = s.configured := rfl
@[simp] theorem emit_params (s : State) (e : Event) : (s.emit e).params = s.params := rfl
@[simp] theorem emit_phase (s : State) (e : Event) : (s.emit e).phase = s.phase := rfl
@[simp] theorem emit_signaled (s : State) (e : Event) : (s.emit e).signaled = s.signaled := rfl
@[simp] theorem emit_anyTimeout (s : State) (e : Event) : (s.emit e).anyTimeout = s.anyTimeout := rfl
@[simp] theorem emit_tCycle (s : State) (e : Event) : (s.emit e).tCycle = s.tCycle := rfl
@[simp] theorem emit_curOp (s : State) (e : Event) : (s.emit e).curOp = s.curOp := rfl
@[simp] theorem emit_cycleBusy (s : State) (e : Event) : (s.emit e).cycleBusy = s.cycleBusy := rfl
@[simp] theorem emit_fs (s : State) (e : Event) : (s.emit e).fs = s.fs := rfl
@[simp] theorem emit_tail (s : State) (e : Event) : (s.emit e).tail = s.tail := rfl
@[simp] theorem emit_n (s : State) (e : Event) : (s.emit e).n = s.n := rfl
@[simp] theorem emit_crcCalc (s : State) (e : Event) : (s.emit e).crcCalc = s.crcCalc := rfl
@[simp] theorem emit_crcRx (s : State) (e : Event) : (s.emit e).crcRx = s.crcRx := rfl
@[simp] theorem emit_ts (s : State) (e : Event) : (s.emit e).ts = s.ts := rfl
@[simp] theorem emit_addr (s : State) (e : Event) : (s.emit e).addr = s.addr := rfl
@[simp] theorem emit_fn (s : State) (e : Event) : (s.emit e).fn = s.fn := rfl
@[simp] theorem emit_ch (s : State) (e : Event) : (s.emit e).ch = s.ch := rfl
@[simp] theorem emit_warnRec (s : State) (e : Event) : (s.emit e).warnRec = s.warnRec := rfl
@[simp] theorem emit_limitFlag (s : State) (e : Event) : (s.emit e).limitFlag = s.limitFlag := rfl
@[simp] theorem emit_feFlag (s : State) (e : Event) : (s.emit e).feFlag = s.feFlag := rfl
@[simp] theorem emit_faulted (s : State) (e : Event) : (s.emit e).faulted = s.faulted := rfl
@[simp] theorem emit_refusalMark (s : State) (e : Event) : (s.emit e).refusalMark = s.refusalMark := rfl
@[simp] theorem emit_freeCount (s : State) (e : Event) : (s.emit e).freeCount = s.freeCount := rfl
@[simp] theorem emit_env (s : State) (e : Event) : (s.emit e).env = s.env := rfl
@[simp] theorem emit_schedule (s : State) (e : Event) : (s.emit e).schedule = s.schedule := rfl
@[simp] theorem emit_port (s : State) (e : Event) : (s.emit e).port = s.port := rfl
@[simp] theorem emit_out (s : State) (e : Event) : (s.emit e).out = s.out ++ [e] := rfl
@[simp] theorem emit_ret (s : State) (e : Event) : (s.emit e).ret = s.ret := rfl

/-! ### raise -/

@[simp] theorem raise_buf (k : WarnKind) (aid : Int) (s : State) : (raise k aid s).buf = s.buf := rfl
@[simp] theorem raise_len (k : WarnKind) (aid : Int) (s : State) : (raise k aid s).len = s.len := rfl
@[simp] theorem raise_idx (k : WarnKind) (aid : Int) (s : State) : (raise k aid s).idx = s.idx := rfl
@[simp] theorem raise_capacity (k : WarnKind) (aid : Int) (s : State) : (raise k aid s).capacity = s.capacity := rfl
@[simp] theorem raise_bcastCtr (k : WarnKind) (aid : Int) (s : State) : (raise k aid s).bcastCtr = s.bcastCtr := rfl
@[simp] theorem raise_busLists (k : WarnKind) (aid : Int) (s : State) : (raise k aid s).busLists = s.busLists := rfl
@[simp] theorem raise_faExp (k : WarnKind) (aid : Int) (s : State) : (raise k aid s).faExp = s.faExp := rfl
@[simp] theorem raise_haExp (k : WarnKind) (aid : Int) (s : State) : (raise k aid s).haExp = s.haExp := rfl
@[simp] theorem raise_hmExp (k : WarnKind) (aid : Int) (s : State) : (raise k aid s).hmExp = s.hmExp := rfl
@[simp] theorem raise_ilcMap (k : WarnKind) (aid : Int) (s : State) : (raise k aid s).ilcMap = s.ilcMap := rfl
@[simp] theorem raise_configured (k : WarnKind) (aid : Int) (s : State) : (raise k aid s).configured = s.configured :=
  rfl
@[simp] theorem raise_params (k : WarnKind) (aid : Int) (s : State) : (raise k aid s).params = s.params := rfl
@[simp] theorem raise_phase (k : WarnKind) (aid : Int) (s : State) : (raise k aid s).phase = s.phase := rfl
@[simp] theorem raise_signaled (k : WarnKind) (aid : Int) (s : State) : (raise k aid s).signaled = s.signaled := rfl
@[simp] theorem raise_anyTimeout (k : WarnKind) (aid : Int) (s : State) : (raise k aid s).anyTimeout = s.anyTimeout :=
  rfl
@[simp] theorem raise_tCycle (k : WarnKind) (aid : Int) (s : State) : (raise k aid s).tCycle = s.tCycle := rfl
@[simp] theorem raise_curOp (k : WarnKind) (aid : Int) (s : State) : (raise k aid s).curOp = s.curOp := rfl
@[simp] theorem raise_cycleBusy (k : WarnKind) (aid : Int) (s : State) : (raise k aid s).cycleBusy = s.cycleBusy :=
  rfl
@[simp] theorem raise_fs (k : WarnKind) (aid : Int) (s : State) : (raise k aid s).fs = s.fs := rfl
@[simp] theorem raise_tail (k : WarnKind) (aid : Int) (s : State) : (raise k aid s).tail = s.tail := rfl
@[simp] theorem raise_n (k : WarnKind) (aid : Int) (s : State) : (raise k aid s).n = s.n := rfl
@[simp] theorem raise_crcCalc (k : WarnKind) (aid : Int) (s : State) : (raise k aid s).crcCalc = s.crcCalc := rfl
@[simp] theorem raise_crcRx (k : WarnKind) (aid : Int) (s : State) : (raise k aid s).crcRx = s.crcRx := rfl
@[simp] theorem raise_ts (k : WarnKind) (aid : Int) (s : State) : (raise k aid s).ts = s.ts := rfl
@[simp] theorem raise_addr (k : WarnKind) (aid : Int) (s : State) : (raise k aid s).addr = s.addr := rfl
@[simp] theorem raise_fn (k : WarnKind) (aid : Int) (s : State) : (raise k aid s).fn = s.fn := rfl
@[simp] theorem raise_ch (k : WarnKind) (aid : Int) (s : State) : (raise k aid s).ch = s.ch := rfl
@[simp] theorem raise_warnRec (k : WarnKind) (aid : Int) (s : State) : (raise k aid s).warnRec = ⟨s.tCycle, aid, some k⟩ :=
  rfl
@[simp] theorem raise_limitFlag (k : WarnKind) (aid : Int) (s : State) : (raise k aid s).limitFlag = s.limitFlag :=
  rfl
@[simp] theorem raise_feFlag (k : WarnKind) (aid : Int) (s : State) : (raise k aid s).feFlag = s.feFlag := rfl
@[simp] theorem raise_faulted (k : WarnKind) (aid : Int) (s : State) : (raise k aid s).faulted = s.faulted := rfl
@[simp] theorem raise_refusalMark (k : WarnKind) (aid : Int) (s : State) : (raise k aid s).refusalMark = s.refusalMark :=
  rfl
@[simp] theorem raise_freeCount (k : WarnKind) (aid : Int) (s : State) : (raise k aid s).freeCount = s.freeCount :=
  rfl
@[simp] theorem raise_env (k : WarnKind) (aid : Int) (s : State) : (raise k aid s).env = s.env := rfl
@[simp] theorem raise_schedule (k : WarnKind) (aid : Int) (s : State) : (raise k aid s).schedule = s.schedule := rfl
@[simp] theorem raise_port (k : WarnKind) (aid : Int) (s : State) : (raise k aid s).port = s.port := rfl
@[simp] theorem raise_out (k : WarnKind) (aid : Int) (s : State) : (raise k aid s).out = s.out ++ [.warning ⟨s.tCycle, aid, some k⟩] :=
  rfl
@[simp] theorem raise_ret (k : WarnKind) (aid : Int) (s : State) : (raise k aid s).ret = s.ret := rfl

/-! ### resetBuffer -/

@[simp] theorem resetBuffer_buf (s : State) : (resetBuffer s).buf = [] := rfl
@[simp] theorem resetBuffer_len (s : State) : (resetBuffer s).len = 0 := rfl
@[simp] theorem resetBuffer_idx (s : State) : (resetBuffer s).idx = 0 := rfl
@[simp] theorem resetBuffer_capacity (s : State) : (resetBuffer s).capacity = s.capacity := rfl
@[simp] theorem resetBuffer_bcastCtr (s : State) : (resetBuffer s).bcastCtr = s.bcastCtr := rfl
@[simp] theorem resetBuffer_busLists (s : State) : (resetBuffer s).busLists = s.busLists := rfl
@[simp] theorem resetBuffer_faExp (s : State) : (resetBuffer s).faExp = s.faExp := rfl
@[simp] theorem resetBuffer_haExp (s : State) : (resetBuffer s).haExp = s.haExp := rfl
@[simp] theorem resetBuffer_hmExp (s : State) : (resetBuffer s).hmExp = s.hmExp := rfl
@[simp] theorem resetBuffer_ilcMap (s : State) : (resetBuffer s).ilcMap = s.ilcMap := rfl
@[simp] theorem resetBuffer_configured (s : State) : (resetBuffer s).configured = s.configured := rfl
@[simp] theorem resetBuffer_params (s : State) : (resetBuffer s).params = s.params := rfl
@[simp] theorem resetBuffer_phase (s : State) : (resetBuffer s).phase = s.phase := rfl
@[simp] theorem resetBuffer_signaled (s : State) : (resetBuffer s).signaled = s.signaled := rfl
@[simp] theorem resetBuffer_anyTimeout (s : State) : (resetBuffer s).anyTimeout = s.anyTimeout := rfl
@[simp] theorem resetBuffer_tCycle (s : State) : (resetBuffer s).tCycle = s.tCycle := rfl
@[simp] theorem resetBuffer_curOp (s : State) : (resetBuffer s).curOp = s.curOp := rfl
@[simp] theorem resetBuffer_cycleBusy (s : State) : (resetBuffer s).cycleBusy = s.cycleBusy := rfl
@[simp] theorem resetBuffer_fs (s : State) : (resetBuffer s).fs = s.fs := rfl
@[simp] theorem resetBuffer_tail (s : State) : (resetBuffer s).tail = s.tail := rfl
@[simp] theorem resetBuffer_n (s : State) : (resetBuffer s).n = s.n := rfl
@[simp] theorem resetBuffer_crcCalc (s : State) : (resetBuffer s).crcCalc = s.crcCalc := rfl
@[simp] theorem resetBuffer_crcRx (s : State) : (resetBuffer s).crcRx = s.crcRx := rfl
@[simp] theorem resetBuffer_ts (s : State) : (resetBuffer s).ts = s.ts := rfl
@[simp] theorem resetBuffer_addr (s : State) : (resetBuffer s).addr = s.addr := rfl
@[simp] theorem resetBuffer_fn (s : State) : (resetBuffer s).fn = s.fn := rfl
@[simp] theorem resetBuffer_ch (s : State) : (resetBuffer s).ch = s.ch := rfl
@[simp] theorem resetBuffer_warnRec (s : State) : (resetBuffer s).warnRec = s.warnRec := rfl
@[simp] theorem resetBuffer_limitFlag (s : State) : (resetBuffer s).limitFlag = s.limitFlag := rfl
@[simp] theorem resetBuffer_feFlag (s : State) : (resetBuffer s).feFlag = s.feFlag := rfl
@[simp] theorem resetBuffer_faulted (s : State) : (resetBuffer s).faulted = s.faulted := rfl
@[simp] theorem resetBuffer_refusalMark (s : State) : (resetBuffer s).refusalMark = s.refusalMark := rfl
@[simp] theorem resetBuffer_freeCount (s : State) : (resetBuffer s).freeCount = s.freeCount := rfl
@[simp] theorem resetBuffer_env (s : State) : (resetBuffer s).env = s.env := rfl
@[simp] theorem resetBuffer_schedule (s : State) : (resetBuffer s).schedule = s.schedule := rfl
@[simp] theorem resetBuffer_port (s : State) : (resetBuffer s).port = s.port := rfl
@[simp] theorem resetBuffer_out (s : State) : (resetBuffer s).out = s.out := rfl
@[simp] theorem resetBuffer_ret (s : State) : (resetBuffer s).ret = s.ret := rfl

/-! ### skipToNextFrame -/

@[simp] theorem skipToNextFrame_buf (s : State) : (skipToNextFrame s).buf = s.buf := rfl
@[simp] theorem skipToNextFrame_len (s : State) : (skipToNextFrame s).len = s.len := rfl
@[simp] theorem skipToNextFrame_idx (s : State) : (skipToNextFrame s).idx = nextFrame s := rfl
@[simp] theorem skipToNextFrame_capacity (s : State) : (skipToNextFrame s).capacity = s.capacity := rfl
@[simp] theorem skipToNextFrame_bcastCtr (s : State) : (skipToNextFrame s).bcastCtr = s.bcastCtr := rfl
@[simp] theorem skipToNextFrame_busLists (s : State) : (skipToNextFrame s).busLists = s.busLists := rfl
@[simp] theorem skipToNextFrame_faExp (s : State) : (skipToNextFrame s).faExp = s.faExp := rfl
@[simp] theorem skipToNextFrame_haExp (s : State) : (skipToNextFrame s).haExp = s.haExp := rfl
@[simp] theorem skipToNextFrame_hmExp (s : State) : (skipToNextFrame s).hmExp = s.hmExp := rfl
@[simp] theorem skipToNextFrame_ilcMap (s : State) : (skipToNextFrame s).ilcMap = s.ilcMap := rfl
@[simp] theorem skipToNextFrame_configured (s : State) : (skipToNextFrame s).configured = s.configured := rfl
@[simp] theorem skipToNextFrame_params (s : State) : (skipToNextFrame s).params = s.params := rfl
@[simp] theorem skipToNextFrame_phase (s : State) : (skipToNextFrame s).phase = s.phase := rfl
@[simp] theorem skipToNextFrame_signaled (s : State) : (skipToNextFrame s).signaled = s.signaled := rfl
@[simp] theorem skipToNextFrame_anyTimeout (s : State) : (skipToNextFrame s).anyTimeout = s.anyTimeout := rfl
@[simp] theorem skipToNextFrame_tCycle (s : State) : (skipToNextFrame s).tCycle = s.tCycle := rfl
@[simp] theorem skipToNextFrame_curOp (s : State) : (skipToNextFrame s).curOp = s.curOp := rfl
@[simp] theorem skipToNextFrame_cycleBusy (s : State) : (skipToNextFrame s).cycleBusy = s.cycleBusy := rfl
@[simp] theorem skipToNextFrame_fs (s : State) : (skipToNextFrame s).fs = s.fs := rfl
@[simp] theorem skipToNextFrame_tail (s : State) : (skipToNextFrame s).tail = s.tail := rfl
@[simp] theorem skipToNextFrame_n (s : State) : (skipToNextFrame s).n = s.n := rfl
@[simp] theorem skipToNextFrame_crcCalc (s : State) : (skipToNextFrame s).crcCalc = s.crcCalc := rfl
@[simp] theorem skipToNextFrame_crcRx (s : State) : (skipToNextFrame s).crcRx = s.crcRx := rfl
@[simp] theorem skipToNextFrame_ts (s : State) : (skipToNextFrame s).ts = s.ts := rfl
@[simp] theorem skipToNextFrame_addr (s : State) : (skipToNextFrame s).addr = s.addr := rfl
@[simp] theorem skipToNextFrame_fn (s : State) : (skipToNextFrame s).fn = s.fn := rfl
@[simp] theorem skipToNextFrame_ch (s : State) : (skipToNextFrame s).ch = s.ch := rfl
@[simp] theorem skipToNextFrame_warnRec (s : State) : (skipToNextFrame s).warnRec = s.warnRec := rfl
@[simp] theorem skipToNextFrame_limitFlag (s : State) : (skipToNextFrame s).limitFlag = s.limitFlag := rfl
@[simp] theorem skipToNextFrame_feFlag (s : State) : (skipToNextFrame s).feFlag = s.feFlag := rfl
@[simp] theorem skipToNextFrame_faulted (s : State) : (skipToNextFrame s).faulted = s.faulted := rfl
@[simp] theorem skipToNextFrame_refusalMark (s : State) : (skipToNextFrame s).refusalMark = s.refusalMark := rfl
@[simp] theorem skipToNextFrame_freeCount (s : State) : (skipToNextFrame s).freeCount = s.freeCount := rfl
@[simp] theorem skipToNextFrame_env (s : State) : (skipToNextFrame s).env = s.env := rfl
@[simp] theorem skipToNextFrame_schedule (s : State) : (skipToNextFrame s).schedule = s.schedule := rfl
@[simp] theorem skipToNextFrame_port (s : State) : (skipToNextFrame s).port = s.port := rfl
@[simp] theorem skipToNextFrame_out (s : State) : (skipToNextFrame s).out = s.out := rfl
@[simp] theorem skipToNextFrame_ret (s : State) : (skipToNextFrame s).ret = s.ret := rfl

/-! ### setExp -/

@[simp] theorem setExp_buf (s : State) (dt : DeviceType) (l : List Int) : (s.setExp dt l).buf = s.buf :=
  by cases dt <;> rfl
@[simp] theorem setExp_len (s : State) (dt : DeviceType) (l : List Int) : (s.setExp dt l).len = s.len :=
  by cases dt <;> rfl
@[simp] theorem setExp_idx (s : State) (dt : DeviceType) (l : List Int) : (s.setExp dt l).idx = s.idx :=
  by cases dt <;> rfl
@[simp] theorem setExp_capacity (s : State) (dt : DeviceType) (l : List Int) : (s.setExp dt l).capacity = s.capacity :=
  by cases dt <;> rfl
@[simp] theorem setExp_bcastCtr (s : State) (dt : DeviceType) (l : List Int) : (s.setExp dt l).bcastCtr = s.bcastCtr :=
  by cases dt <;> rfl
@[simp] theorem setExp_busLists (s : State) (dt : DeviceType) (l : List Int) : (s.setExp dt l).busLists = s.busLists :=
  by cases dt <;> rfl
@[simp] theorem setExp_ilcMap (s : State) (dt : DeviceType) (l : List Int) : (s.setExp dt l).ilcMap = s.ilcMap :=
  by cases dt <;> rfl
@[simp] theorem setExp_configured (s : State) (dt : DeviceType) (l : List Int) : (s.setExp dt l).configured = s.configured :=
  by cases dt <;> rfl
@[simp] theorem setExp_params (s : State) (dt : DeviceType) (l : List Int) : (s.setExp dt l).params = s.params :=
  by cases dt <;> rfl
@[simp] theorem setExp_phase (s : State) (dt : DeviceType) (l : List Int) : (s.setExp dt l).phase = s.phase :=
  by cases dt <;> rfl
@[simp] theorem setExp_signaled (s : State) (dt : DeviceType) (l : List Int) : (s.setExp dt l).signaled = s.signaled :=
  by cases dt <;> rfl
@[simp] theorem setExp_anyTimeout (s : State) (dt : DeviceType) (l : List Int) : (s.setExp dt l).anyTimeout = s.anyTimeout :=
  by cases dt <;> rfl
@[simp] theorem setExp_tCycle (s : State) (dt : DeviceType) (l : List Int) : (s.setExp dt l).tCycle = s.tCycle :=
  by cases dt <;> rfl
@[simp] theorem setExp_curOp (s : State) (dt : DeviceType) (l : List Int) : (s.setExp dt l).curOp = s.curOp :=
  by cases dt <;> rfl
@[simp] theorem setExp_cycleBusy (s : State) (dt : DeviceType) (l : List Int) : (s.setExp dt l).cycleBusy = s.cycleBusy :=
  by cases dt <;> rfl
@[simp] theorem setExp_fs (s : State) (dt : DeviceType) (l : List Int) : (s.setExp dt l).fs = s.fs :=
  by cases dt <;> rfl
@[simp] theorem setExp_tail (s : State) (dt : DeviceType) (l : List Int) : (s.setExp dt l).tail = s.tail :=
  by cases dt <;> rfl
@[simp] theorem setExp_n (s : State) (dt : DeviceType) (l : List Int) : (s.setExp dt l).n = s.n := by cases dt <;> rfl
@[simp] theorem setExp_crcCalc (s : State) (dt : DeviceType) (l : List Int) : (s.setExp dt l).crcCalc = s.crcCalc :=
  by cases dt <;> rfl
@[simp] theorem setExp_crcRx (s : State) (dt : DeviceType) (l : List Int) : (s.setExp dt l).crcRx = s.crcRx :=
  by cases dt <;> rfl
@[simp] theorem setExp_ts (s : State) (dt : DeviceType) (l : List Int) : (s.setExp dt l).ts = s.ts :=
  by cases dt <;> rfl
@[simp] theorem setExp_addr (s : State) (dt : DeviceType) (l : List Int) : (s.setExp dt l).addr = s.addr :=
  by cases dt <;> rfl
@[simp] theorem setExp_fn (s : State) (dt : DeviceType) (l : List Int) : (s.setExp dt l).fn = s.fn :=
  by cases dt <;> rfl
@[simp] theorem setExp_ch (s : State) (dt : DeviceType) (l : List Int) : (s.setExp dt l).ch = s.ch :=
  by cases dt <;> rfl
@[simp] theorem setExp_warnRec (s : State) (dt : DeviceType) (l : List Int) : (s.setExp dt l).warnRec = s.warnRec :=
  by cases dt <;> rfl
@[simp] theorem setExp_limitFlag (s : State) (dt : DeviceType) (l : List Int) : (s.setExp dt l).limitFlag = s.limitFlag :=
  by cases dt <;> rfl
@[simp] theorem setExp_feFlag (s : State) (dt : DeviceType) (l : List Int) : (s.setExp dt l).feFlag = s.feFlag :=
  by cases dt <;> rfl
@[simp] theorem setExp_faulted (s : State) (dt : DeviceType) (l : List Int) : (s.setExp dt l).faulted = s.faulted :=
  by cases dt <;> rfl
@[simp] theorem setExp_refusalMark (s : State) (dt : DeviceType) (l : List Int) : (s.setExp dt l).refusalMark = s.refusalMark :=
  by cases dt <;> rfl
@[simp] theorem setExp_freeCount (s : State) (dt : DeviceType) (l : List Int) : (s.setExp dt l).freeCount = s.freeCount :=
  by cases dt <;> rfl
@[simp] theorem setExp_env (s : State) (dt : DeviceType) (l : List Int) : (s.setExp dt l).env = s.env :=
  by cases dt <;> rfl
@[simp] theorem setExp_schedule (s : State) (dt : DeviceType) (l : List Int) : (s.setExp dt l).schedule = s.schedule :=
  by cases dt <;> rfl
@[simp] theorem setExp_port (s : State) (dt : DeviceType) (l : List Int) : (s.setExp dt l).port = s.port :=
  by cases dt <;> rfl
@[simp] theorem setExp_out (s : State) (dt : DeviceType) (l : List Int) : (s.setExp dt l).out = s.out :=
  by cases dt <;> rfl
@[simp] theorem setExp_ret (s : State) (dt : DeviceType) (l : List Int) : (s.setExp dt l).ret = s.ret :=
  by cases dt <;> rfl

/-! ### setBusList -/

@[simp] theorem setBusList_buf (op : Op) (items : List Item) (s : State) : (setBusList op items s).buf = s.buf := rfl
@[simp] theorem setBusList_len (op : Op) (items : List Item) (s : State) : (setBusList op items s).len = s.len := rfl
@[simp] theorem setBusList_idx (op : Op) (items : List Item) (s : State) : (setBusList op items s).idx = s.idx := rfl
@[simp] theorem setBusList_capacity (op : Op) (items : List Item) (s : State) : (setBusList op items s).capacity = s.capacity :=
  rfl
@[simp] theorem setBusList_bcastCtr (op : Op) (items : List Item) (s : State) : (setBusList op items s).bcastCtr = s.bcastCtr :=
  rfl
@[simp] theorem setBusList_busLists (op : Op) (items : List Item) (s : State) : (setBusList op items s).busLists = if items.isEmpty then keyDrop s.busLists op else keyPut s.busLists op items :=
  rfl
@[simp] theorem setBusList_faExp (op : Op) (items : List Item) (s : State) : (setBusList op items s).faExp = s.faExp :=
  rfl
@[simp] theorem setBusList_haExp (op : Op) (items : List Item) (s : State) : (setBusList op items s).haExp = s.haExp :=
  rfl
@[simp] theorem setBusList_hmExp (op : Op) (items : List Item) (s : State) : (setBusList op items s).hmExp = s.hmExp :=
  rfl
@[simp] theorem setBusList_ilcMap (op : Op) (items : List Item) (s : State) : (setBusList op items s).ilcMap = s.ilcMap :=
  rfl
@[simp] theorem setBusList_configured (op : Op) (items : List Item) (s : State) : (setBusList op items s).configured = s.configured :=
  rfl
@[simp] theorem setBusList_params (op : Op) (items : List Item) (s : State) : (setBusList op items s).params = s.params :=
  rfl
@[simp] theorem setBusList_phase (op : Op) (items : List Item) (s : State) : (setBusList op items s).phase = s.phase :=
  rfl
@[simp] theorem setBusList_signaled (op : Op) (items : List Item) (s : State) : (setBusList op items s).signaled = s.signaled :=
  rfl
@[simp] theorem setBusList_anyTimeout (op : Op) (items : List Item) (s : State) : (setBusList op items s).anyTimeout = s.anyTimeout :=
  rfl
@[simp] theorem setBusList_tCycle (op : Op) (items : List Item) (s : State) : (setBusList op items s).tCycle = s.tCycle :=
  rfl
@[simp] theorem setBusList_curOp (op : Op) (items : List Item) (s : State) : (setBusList op items s).curOp = s.curOp :=
  rfl
@[simp] theorem setBusList_cycleBusy (op : Op) (items : List Item) (s : State) : (setBusList op items s).cycleBusy = s.cycleBusy :=
  rfl
@[simp] theorem setBusList_fs (op : Op) (items : List Item) (s : State) : (setBusList op items s).fs = s.fs := rfl
@[simp] theorem setBusList_tail (op : Op) (items : List Item) (s : State) : (setBusList op items s).tail = s.tail :=
  rfl
@[simp] theorem setBusList_n (op : Op) (items : List Item) (s : State) : (setBusList op items s).n = s.n := rfl
@[simp] theorem setBusList_crcCalc (op : Op) (items : List Item) (s : State) : (setBusList op items s).crcCalc = s.crcCalc :=
  rfl
@[simp] theorem setBusList_crcRx (op : Op) (items : List Item) (s : State) : (setBusList op items s).crcRx = s.crcRx :=
  rfl
@[simp] theorem setBusList_ts (op : Op) (items : List Item) (s : State) : (setBusList op items s).ts = s.ts := rfl
@[simp] theorem setBusList_addr (op : Op) (items : List Item) (s : State) : (setBusList op items s).addr = s.addr :=
  rfl
@[simp] theorem setBusList_fn (op : Op) (items : List Item) (s : State) : (setBusList op items s).fn = s.fn := rfl
@[simp] theorem setBusList_ch (op : Op) (items : List Item) (s : State) : (setBusList op items s).ch = s.ch := rfl
@[simp] theorem setBusList_warnRec (op : Op) (items : List Item) (s : State) : (setBusList op items s).warnRec = s.warnRec :=
  rfl
@[simp] theorem setBusList_limitFlag (op : Op) (items : List Item) (s : State) : (setBusList op items s).limitFlag = s.limitFlag :=
  rfl
@[simp] theorem setBusList_feFlag (op : Op) (items : List Item) (s : State) : (setBusList op items s).feFlag = s.feFlag :=
  rfl
@[simp] theorem setBusList_faulted (op : Op) (items : List Item) (s : State) : (setBusList op items s).faulted = s.faulted :=
  rfl
@[simp] theorem setBusList_refusalMark (op : Op) (items : List Item) (s : State) : (setBusList op items s).refusalMark = s.refusalMark :=
  rfl
@[simp] theorem setBusList_freeCount (op : Op) (items : List Item) (s : State) : (setBusList op items s).freeCount = s.freeCount :=
  rfl
@[simp] theorem setBusList_env (op : Op) (items : List Item) (s : State) : (setBusList op items s).env = s.env := rfl
@[simp] theorem setBusList_schedule (op : Op) (items : List Item) (s : State) : (setBusList op items s).schedule = s.schedule :=
  rfl
@[simp] theorem setBusList_port (op : Op) (items : List Item) (s : State) : (setBusList op items s).port = s.port :=
  rfl
@[simp] theorem setBusList_out (op : Op) (items : List Item) (s : State) : (setBusList op items s).out = s.out := rfl
@[simp] theorem setBusList_ret (op : Op) (items : List Item) (s : State) : (setBusList op items s).ret = s.ret := rfl

/-! ### tick -/

@[simp] theorem tick_buf (s : State) : s.tick.buf = s.buf := rfl
@[simp] theorem tick_len (s : State) : s.tick.len = s.len := rfl
@[simp] theorem tick_idx (s : State) : s.tick.idx = s.idx := rfl
@[simp] theorem tick_capacity (s : State) : s.tick.capacity = s.capacity := rfl
@[simp] theorem tick_bcastCtr (s : State) : s.tick.bcastCtr = s.bcastCtr := rfl
@[simp] theorem tick_busLists (s : State) : s.tick.busLists = s.busLists := rfl
@[simp] theorem tick_faExp (s : State) : s.tick.faExp = s.faExp := rfl
@[simp] theorem tick_haExp (s : State) : s.tick.haExp = s.haExp := rfl
@[simp] theorem tick_hmExp (s : State) : s.tick.hmExp = s.hmExp := rfl
@[simp] theorem tick_ilcMap (s : State) : s.tick.ilcMap = s.ilcMap := rfl
@[simp] theorem tick_configured (s : State) : s.tick.configured = s.configured := rfl
@[simp] theorem tick_params (s : State) : s.tick.params = s.params := rfl
@[simp] theorem tick_phase (s : State) : s.tick.phase = s.phase := rfl
@[simp] theorem tick_signaled (s : State) : s.tick.signaled = s.signaled := rfl
@[simp] theorem tick_anyTimeout (s : State) : s.tick.anyTimeout = s.anyTimeout := rfl
@[simp] theorem tick_tCycle (s : State) : s.tick.tCycle = s.tCycle := rfl
@[simp] theorem tick_curOp (s : State) : s.tick.curOp = s.curOp := rfl
@[simp] theorem tick_cycleBusy (s : State) : s.tick.cycleBusy = s.cycleBusy := rfl
@[simp] theorem tick_fs (s : State) : s.tick.fs = s.fs := rfl
@[simp] theorem tick_tail (s : State) : s.tick.tail = s.tail := rfl
@[simp] theorem tick_n (s : State) : s.tick.n = s.n := rfl
@[simp] theorem tick_crcCalc (s : State) : s.tick.crcCalc = s.crcCalc := rfl
@[simp] theorem tick_crcRx (s : State) : s.tick.crcRx = s.crcRx := rfl
@[simp] theorem tick_ts (s : State) : s.tick.ts = s.ts := rfl
@[simp] theorem tick_addr (s : State) : s.tick.addr = s.addr := rfl
@[simp] theorem tick_fn (s : State) : s.tick.fn = s.fn := rfl
@[simp] theorem tick_ch (s : State) : s.tick.ch = s.ch := rfl
@[simp] theorem tick_warnRec (s : State) : s.tick.warnRec = s.warnRec := rfl
@[simp] theorem tick_limitFlag (s : State) : s.tick.limitFlag = s.limitFlag := rfl
@[simp] theorem tick_feFlag (s : State) : s.tick.feFlag = s.feFlag := rfl
@[simp] theorem tick_faulted (s : State) : s.tick.faulted = s.faulted := rfl
@[simp] theorem tick_refusalMark (s : State) : s.tick.refusalMark = s.refusalMark := rfl
@[simp] theorem tick_freeCount (s : State) : s.tick.freeCount = s.freeCount := rfl
@[simp] theorem tick_env (s : State) : s.tick.env = s.schedule.headD s.env := rfl
@[simp] theorem tick_schedule (s : State) : s.tick.schedule = s.schedule.tail := rfl
@[simp] theorem tick_port (s : State) : s.tick.port = s.port := rfl
@[simp] theorem tick_out (s : State) : s.tick.out = s.out := rfl
@[simp] theorem tick_ret (s : State) : s.tick.ret = s.ret := rfl

/-! ### withFetchWord -/

@[simp] theorem withFetchWord_buf (s : State) (nbits w : Nat) : (s.withFetchWord nbits w).buf = s.buf := rfl
@[simp] theorem withFetchWord_len (s : State) (nbits w : Nat) : (s.withFetchWord nbits w).len = s.len := rfl
@[simp] theorem withFetchWord_idx (s : State) (nbits w : Nat) : (s.withFetchWord nbits w).idx = s.idx := rfl
@[simp] theorem withFetchWord_capacity (s : State) (nbits w : Nat) : (s.withFetchWord nbits w).capacity = s.capacity :=
  rfl
@[simp] theorem withFetchWord_bcastCtr (s : State) (nbits w : Nat) : (s.withFetchWord nbits w).bcastCtr = s.bcastCtr :=
  rfl
@[simp] theorem withFetchWord_busLists (s : State) (nbits w : Nat) : (s.withFetchWord nbits w).busLists = s.busLists :=
  rfl
@[simp] theorem withFetchWord_faExp (s : State) (nbits w : Nat) : (s.withFetchWord nbits w).faExp = s.faExp := rfl
@[simp] theorem withFetchWord_haExp (s : State) (nbits w : Nat) : (s.withFetchWord nbits w).haExp = s.haExp := rfl
@[simp] theorem withFetchWord_hmExp (s : State) (nbits w : Nat) : (s.withFetchWord nbits w).hmExp = s.hmExp := rfl
@[simp] theorem withFetchWord_ilcMap (s : State) (nbits w : Nat) : (s.withFetchWord nbits w).ilcMap = s.ilcMap := rfl
@[simp] theorem withFetchWord_configured (s : State) (nbits w : Nat) : (s.withFetchWord nbits w).configured = s.configured :=
  rfl
@[simp] theorem withFetchWord_params (s : State) (nbits w : Nat) : (s.withFetchWord nbits w).params = s.params := rfl
@[simp] theorem withFetchWord_phase (s : State) (nbits w : Nat) : (s.withFetchWord nbits w).phase = s.phase := rfl
@[simp] theorem withFetchWord_signaled (s : State) (nbits w : Nat) : (s.withFetchWord nbits w).signaled = s.signaled :=
  rfl
@[simp] theorem withFetchWord_anyTimeout (s : State) (nbits w : Nat) : (s.withFetchWord nbits w).anyTimeout = s.anyTimeout :=
  rfl
@[simp] theorem withFetchWord_tCycle (s : State) (nbits w : Nat) : (s.withFetchWord nbits w).tCycle = s.tCycle := rfl
@[simp] theorem withFetchWord_curOp (s : State) (nbits w : Nat) : (s.withFetchWord nbits w).curOp = s.curOp := rfl
@[simp] theorem withFetchWord_cycleBusy (s : State) (nbits w : Nat) : (s.withFetchWord nbits w).cycleBusy = s.cycleBusy :=
  rfl
@[simp] theorem withFetchWord_fs (s : State) (nbits w : Nat) : (s.withFetchWord nbits w).fs = s.fs := rfl
@[simp] theorem withFetchWord_tail (s : State) (nbits w : Nat) : (s.withFetchWord nbits w).tail = s.tail := rfl
@[simp] theorem withFetchWord_n (s : State) (nbits w : Nat) : (s.withFetchWord nbits w).n = s.n := rfl
@[simp] theorem withFetchWord_crcCalc (s : State) (nbits w : Nat) : (s.withFetchWord nbits w).crcCalc = s.crcCalc :=
  rfl
@[simp] theorem withFetchWord_crcRx (s : State) (nbits w : Nat) : (s.withFetchWord nbits w).crcRx = s.crcRx := rfl
@[simp] theorem withFetchWord_ts (s : State) (nbits w : Nat) : (s.withFetchWord nbits w).ts = s.ts := rfl
@[simp] theorem withFetchWord_addr (s : State) (nbits w : Nat) : (s.withFetchWord nbits w).addr = s.addr := rfl
@[simp] theorem withFetchWord_fn (s : State) (nbits w : Nat) : (s.withFetchWord nbits w).fn = s.fn := rfl
@[simp] theorem withFetchWord_ch (s : State) (nbits w : Nat) : (s.withFetchWord nbits w).ch = s.ch := rfl
@[simp] theorem withFetchWord_warnRec (s : State) (nbits w : Nat) : (s.withFetchWord nbits w).warnRec = s.warnRec :=
  rfl
@[simp] theorem withFetchWord_limitFlag (s : State) (nbits w : Nat) : (s.withFetchWord nbits w).limitFlag = s.limitFlag :=
  rfl
@[simp] theorem withFetchWord_feFlag (s : State) (nbits w : Nat) : (s.withFetchWord nbits w).feFlag = s.feFlag := rfl
@[simp] theorem withFetchWord_faulted (s : State) (nbits w : Nat) : (s.withFetchWord nbits w).faulted = s.faulted :=
  rfl
@[simp] theorem withFetchWord_refusalMark (s : State) (nbits w : Nat) : (s.withFetchWord nbits w).refusalMark = s.refusalMark :=
  rfl
@[simp] theorem withFetchWord_freeCount (s : State) (nbits w : Nat) : (s.withFetchWord nbits w).freeCount = s.freeCount :=
  rfl
@[simp] theorem withFetchWord_env (s : State) (nbits w : Nat) : (s.withFetchWord nbits w).env = s.env := rfl
@[simp] theorem withFetchWord_schedule (s : State) (nbits w : Nat) : (s.withFetchWord nbits w).schedule = s.schedule :=
  rfl
@[simp] theorem withFetchWord_port (s : State) (nbits w : Nat) : (s.withFetchWord nbits w).port = tableWords nbits w :=
  rfl
@[simp] theorem withFetchWord_out (s : State) (nbits w : Nat) : (s.withFetchWord nbits w).out = s.out := rfl
@[simp] theorem withFetchWord_ret (s : State) (nbits w : Nat) : (s.withFetchWord nbits w).ret = s.ret := rfl

/-! ### beginCycle -/

@[simp] theorem beginCycle_buf (op : Op) (t : BitVec 64) (s : State) : (beginCycle op t s).buf = s.buf := rfl
@[simp] theorem beginCycle_len (op : Op) (t : BitVec 64) (s : State) : (beginCycle op t s).len = s.len := rfl
@[simp] theorem beginCycle_idx (op : Op) (t : BitVec 64) (s : State) : (beginCycle op t s).idx = s.idx := rfl
@[simp] theorem beginCycle_capacity (op : Op) (t : BitVec 64) (s : State) : (beginCycle op t s).capacity = s.capacity :=
  rfl
@[simp] theorem beginCycle_bcastCtr (op : Op) (t : BitVec 64) (s : State) : (beginCycle op t s).bcastCtr = s.bcastCtr :=
  rfl
@[simp] theorem beginCycle_busLists (op : Op) (t : BitVec 64) (s : State) : (beginCycle op t s).busLists = s.busLists :=
  rfl
@[simp] theorem beginCycle_faExp (op : Op) (t : BitVec 64) (s : State) : (beginCycle op t s).faExp = s.faExp := rfl
@[simp] theorem beginCycle_haExp (op : Op) (t : BitVec 64) (s : State) : (beginCycle op t s).haExp = s.haExp := rfl
@[simp] theorem beginCycle_hmExp (op : Op) (t : BitVec 64) (s : State) : (beginCycle op t s).hmExp = s.hmExp := rfl
@[simp] theorem beginCycle_ilcMap (op : Op) (t : BitVec 64) (s : State) : (beginCycle op t s).ilcMap = s.ilcMap := rfl
@[simp] theorem beginCycle_configured (op : Op) (t : BitVec 64) (s : State) : (beginCycle op t s).configured = s.configured :=
  rfl
@[simp] theorem beginCycle_params (op : Op) (t : BitVec 64) (s : State) : (beginCycle op t s).params = s.params := rfl
@[simp] theorem beginCycle_phase (op : Op) (t : BitVec 64) (s : State) : (beginCycle op t s).phase = .issue := rfl
@[simp] theorem beginCycle_signaled (op : Op) (t : BitVec 64) (s : State) : (beginCycle op t s).signaled = ⟨false, false, false, false, false⟩ :=
  rfl
@[simp] theorem beginCycle_anyTimeout (op : Op) (t : BitVec 64) (s : State) : (beginCycle op t s).anyTimeout = false :=
  rfl
@[simp] theorem beginCycle_tCycle (op : Op) (t : BitVec 64) (s : State) : (beginCycle op t s).tCycle = t := rfl
@[simp] theorem beginCycle_curOp (op : Op) (t : BitVec 64) (s : State) : (beginCycle op t s).curOp = op := rfl
@[simp] theorem beginCycle_cycleBusy (op : Op) (t : BitVec 64) (s : State) : (beginCycle op t s).cycleBusy = true :=
  rfl
@[simp] theorem beginCycle_fs (op : Op) (t : BitVec 64) (s : State) : (beginCycle op t s).fs = s.fs := rfl
@[simp] theorem beginCycle_tail (op : Op) (t : BitVec 64) (s : State) : (beginCycle op t s).tail = s.tail := rfl
@[simp] theorem beginCycle_n (op : Op) (t : BitVec 64) (s : State) : (beginCycle op t s).n = s.n := rfl
@[simp] theorem beginCycle_crcCalc (op : Op) (t : BitVec 64) (s : State) : (beginCycle op t s).crcCalc = s.crcCalc :=
  rfl
@[simp] theorem beginCycle_crcRx (op : Op) (t : BitVec 64) (s : State) : (beginCycle op t s).crcRx = s.crcRx := rfl
@[simp] theorem beginCycle_ts (op : Op) (t : BitVec 64) (s : State) : (beginCycle op t s).ts = s.ts := rfl
@[simp] theorem beginCycle_addr (op : Op) (t : BitVec 64) (s : State) : (beginCycle op t s).addr = s.addr := rfl
@[simp] theorem beginCycle_fn (op : Op) (t : BitVec 64) (s : State) : (beginCycle op t s).fn = s.fn := rfl
@[simp] theorem beginCycle_ch (op : Op) (t : BitVec 64) (s : State) : (beginCycle op t s).ch = s.ch := rfl
@[simp] theorem beginCycle_warnRec (op : Op) (t : BitVec 64) (s : State) : (beginCycle op t s).warnRec = s.warnRec :=
  rfl
@[simp] theorem beginCycle_limitFlag (op : Op) (t : BitVec 64) (s : State) : (beginCycle op t s).limitFlag = s.limitFlag :=
  rfl
@[simp] theorem beginCycle_feFlag (op : Op) (t : BitVec 64) (s : State) : (beginCycle op t s).feFlag = s.feFlag := rfl
@[simp] theorem beginCycle_faulted (op : Op) (t : BitVec 64) (s : State) : (beginCycle op t s).faulted = s.faulted :=
  rfl
@[simp] theorem beginCycle_refusalMark (op : Op) (t : BitVec 64) (s : State) : (beginCycle op t s).refusalMark = s.refusalMark :=
  rfl
@[simp] theorem beginCycle_freeCount (op : Op) (t : BitVec 64) (s : State) : (beginCycle op t s).freeCount = s.freeCount :=
  rfl
@[simp] theorem beginCycle_env (op : Op) (t : BitVec 64) (s : State) : (beginCycle op t s).env = s.env := rfl
@[simp] theorem beginCycle_schedule (op : Op) (t : BitVec 64) (s : State) : (beginCycle op t s).schedule = s.schedule :=
  rfl
@[simp] theorem beginCycle_port (op : Op) (t : BitVec 64) (s : State) : (beginCycle op t s).port = s.port := rfl
@[simp] theorem beginCycle_out (op : Op) (t : BitVec 64) (s : State) : (beginCycle op t s).out = s.out := rfl
@[simp] theorem beginCycle_ret (op : Op) (t : BitVec 64) (s : State) : (beginCycle op t s).ret = s.ret := rfl

/-! ### Runs -/

/-- A run takes one step, then the rest. -/
theorem run_succ (M : Host.Core) (k : Nat) {s t : M.State} (h : M.step s = .next t) :
    M.run (k + 1) s = M.run k t := by simp only [Host.Core.run, h]

end Sys2Proof.Machine
end

