-- ==== Sys2Proof/Tests/Slice0.lean ====
section
/-! SUPPORT. Tests on small states: the ill-formed terms, decoding of words written out, one step of an instruction
against the vectors of spec/95_test_vectors.md (named in each docstring), and, for every obligation with hypotheses,
a witness that they can hold. -/
namespace Sys2Proof.Tests

-- One theorem at a time: the kernel evaluations below otherwise wait for each other on threads of their own.
set_option Elab.async false

open Sys2Proof.Machine Sys2Proof.Safety

/-! ### The common configuration (95_test_vectors.md §0 and §9) -/

/-- A whole number as a ratio. -/
def whole (n : Int) : Ratio := ⟨n, 0⟩

/-- The limits of §9 for one cylinder. -/
def limitsRow (id : Int) (a : Axis) : AxisLimitsRow := ⟨id, a, ⟨whole 1000, whole (-1000), whole 5⟩⟩

/-- The parameters of §0 and §9; detailed state 1 is Raising, 2 Active, 3 Lowering, any other of no family. -/
def params : Params :=
  { (default : Params) with
    floatOrder := .lsbFirst, len17 := 12, len18 := 6, nopLvdtExpects := true, decrOnBadCrc := false
    nFA := 2, nHA := 1, nHM := 1, len65 := 2
    fnStepMotorBcast := 66, fnForceDemandBcast := 75, fnFreezeEm := 68, fnFreezePneu := 69, fnNopLvdt := 123
    bcastField := .nibble 0 false
    axisLimits := [limitsRow 101 .primary, limitsRow 101 .secondary, limitsRow 117 .primary, limitsRow 117 .secondary]
    lcLo := whole (-100), lcHi := whole 100, lcActiveLo := whole (-80), lcActiveHi := whole 80
    lcFbLo := whole (-60), lcFbHi := whole 60
    airpLoActive := whole 20, airpLoLowering := whole 20, airpLoRaising := whole 10
    airpHiRaising := whole 100, airpHiActive := whole 100, airpHiLowering := whole 100
    stateFamily := [(1, .raising), (2, .active), (3, .lowering)], umPerCount := whole 2 }

def fa0 : ILCMap := ⟨.fa, 0, -1, -1, -1, 101, .plusY⟩
def fa1 : ILCMap := ⟨.fa, 1, 0, -1, 0, 117, .plusY⟩
def ha0 : ILCMap := ⟨.ha, 0, -1, -1, -1, 1, .plusX⟩
def hm0 : ILCMap := ⟨.hm, 0, -1, -1, -1, 84, .plusX⟩

/-- The example map of §0. -/
def exampleMap : List MapEntry := [⟨1, 1, fa0⟩, ⟨1, 17, fa1⟩, ⟨5, 1, ha0⟩, ⟨5, 84, hm0⟩]

/-- No subnet signals; the commanded forces of §11. -/
def quiet : Env :=
  { writeOk := true, signal := ⟨false, false, false, false, false⟩, rx := ⟨[], [], [], [], []⟩
    detailedState := 2, forceBalance := false
    commands := [⟨0, .primary, 100000⟩, ⟨1, .primary, 100000⟩, ⟨1, .secondary, 50000⟩] }

/-- A block with the configuration of §0 loaded and 64 words of buffer. -/
def start : State :=
  { State.reset with
    capacity := 64, env := quiet, schedule := [], params := params, configured := true
    ilcMap := buildMap exampleMap, faExp := [0, 0], haExp := [0], hmExp := [0]
    limitFlag := [⟨false, false⟩, ⟨false, false⟩], feFlag := [⟨false, false⟩, ⟨false, false⟩] }

/-- `start` with `ws` loaded. -/
def rx (ws : List Word) : State := { start with buf := Memory.ofWords 0 ws, len := ws.length, idx := 0 }

/-- What is seen of the next state, if there is one. -/
def see {α : Type} (f : State → α) : Host.Outcome State Fault Refusal → Option α
  | .next s => some (f s)
  | _ => none

/-- The fault, if the step ended in one. -/
def faultOf : Host.Outcome State Fault Refusal → Option Fault
  | .fault f => some f
  | _ => none

/-- The refusal, if the step ended in one. -/
def refusalOf : Host.Outcome State Fault Refusal → Option Refusal
  | .refused r => some r
  | _ => none

/-- The words the buffer holds. -/
def words (s : State) : List Word := s.buf.map fun p => p.2

/-- The words an instruction writes from an empty buffer. -/
def writes (i : Instr) : Option (List Word) := see words (exec i start)

/-- What an instruction returns from `ws`, and where it leaves the cursor. -/
def reads (i : Instr) (ws : List Word) : Option (Ret × Nat) := see (fun t => (t.ret, t.idx)) (exec i (rx ws))

/-- A frame on subnet 1 with `k` payload bytes. -/
def frame (c : ILCMap) (addr : Byte) (k : Nat) : Routed := ⟨c, 1, addr, k, 0x1234⟩

/-! ### Ill-formed terms are refused (WellFormed.lean) -/

theorem test_wf_class_words :
    ([.classTs 0xA000#16, .classTs 0xB034#16, .classEofw 0xA000#16, .classEofw 0xB134#16, .classData 0x1296#16,
      .classData 0x9096#16, .classData 0xA001#16, .classData 0xB134#16] : List Instr).all (fun i => !i.wf) = true := by
  decide

theorem test_wf_fa_rows :
    ([.rspFaReportServerID, .rspFaReportServerStatus, .rspFaChangeILCMode, .rspFaSetBoostValveDCAGains,
      .rspFaReadBoostValveDCAGains, .rspFaForceDemand, .rspFaPneumaticForceStatus, .rspFaSetADCScanRate,
      .rspFaSetADCChannelOffsetAndSensitivity, .rspFaReset, .rspFaReadCalibration, .rspFaReportDCAPressure,
      .rspFaReportDCAID, .rspFaReportDCAStatus, .excFa145, .excFa146, .excFa193, .excFa201, .excFa202,
      .excFa203, .excFa204, .excFa208, .excFa209, .excFa235, .excFa238, .excFa247, .excFa248, .excFa249] :
      List (Routed → Instr)).all (fun c => !(c (frame ha0 1 0)).wf) = true := by decide

theorem test_wf_ha_rows :
    ([.rspHaReportServerID, .rspHaReportServerStatus, .rspHaChangeILCMode, .rspHaStepMotor,
      .rspHaElectromechanicalForceAndStatus, .rspHaSetADCScanRate, .rspHaSetADCChannelOffsetAndSensitivity,
      .rspHaReset, .rspHaReadCalibration, .excHa145, .excHa146, .excHa193, .excHa194, .excHa195, .excHa208,
      .excHa209, .excHa235, .excHa238] :
      List (Routed → Instr)).all (fun c => !(c (frame hm0 1 0)).wf) = true := by decide

theorem test_wf_hm_rows :
    ([.rspHmReportServerID, .rspHmReportServerStatus, .rspHmChangeILCMode, .rspHmReset, .rspHmReportHMPressure,
      .rspHmReportHMMezzanineID, .rspHmReportHMMezzanineStatus, .rspHmReportLVDT, .excHm145, .excHm146,
      .excHm193, .excHm235, .excHm247, .excHm248, .excHm249, .excHm250] :
      List (Routed → Instr)).all (fun c => !(c (frame fa0 1 0)).wf) = true := by decide

/-! ### Decoding of words written out (30_encoding.md R61 to R66; the function bytes of spec/opcode_table.json) -/

/-- The instruction at the head of some words. -/
def decoded (ws : List Word) : Option Instr :=
  match decode ws with
  | .ok (i, _) => some i
  | .error _ => none

/-- A call word with all operand words zero. -/
def bare (w : Word) : Option Instr := decoded (w :: List.replicate operandPadding 0#16)

/-- The routed frame that zero operand words stand for. -/
def zeroFrame (dt : DeviceType) : Routed := ⟨⟨dt, 0, 0, 0, 0, 0, .plusX⟩, 0, 0, 0, 0⟩

/-- R61 to R66: the byte 0x4B = 01001011 in bits 8..1, 0x34 in bits 7..0, the end-of-frame word, and words that only
the tag nibble classifies. -/
theorem test_decode_words :
    [0b0001001010010110#16, 0b1001000010010110#16, 0b1011000000110100#16, 0b1010000000000000#16,
      0b1011000100110100#16, 0b1010000000000001#16, 0b1001000000000001#16].map (fun w => decoded [w]) =
    [some (.txd 0x4B), some (.rxd 0x4B), some (.tsw 0x34), some .eof, some (.classTs 0xB134#16),
      some (.classEofw 0xA001#16), some (.classData 0x9001#16)] := by decide

/-- The control-word rows and a data-class word with tag 0 have calls of their own (log 1, log 14). -/
theorem test_decode_controls :
    [0x0F00#16, 0x0F01#16, 0x0F02#16, 0x0F03#16, 0x0F04#16, 0x0F05#16].map bare =
    [some (.classData 0), some (.cwLength 0), some .cwSwTrigger, some (.cwDelay 0), some .cwTimestamp,
      some .cwTriggerIrq] := by decide +kernel

/-- The FA success responses: bits 7..0 are the function byte of R74 to R78. -/
theorem test_decode_responses_fa :
    [0x0011#16, 0x0012#16, 0x0041#16, 0x0049#16, 0x004A#16, 0x004B#16, 0x004C#16, 0x0050#16, 0x0051#16,
      0x006B#16, 0x006E#16, 0x0077#16, 0x0078#16, 0x0079#16].map bare =
    [some (.rspFaReportServerID (zeroFrame .fa)), some (.rspFaReportServerStatus (zeroFrame .fa)),
      some (.rspFaChangeILCMode (zeroFrame .fa)), some (.rspFaSetBoostValveDCAGains (zeroFrame .fa)),
      some (.rspFaReadBoostValveDCAGains (zeroFrame .fa)), some (.rspFaForceDemand (zeroFrame .fa)),
      some (.rspFaPneumaticForceStatus (zeroFrame .fa)), some (.rspFaSetADCScanRate (zeroFrame .fa)),
      some (.rspFaSetADCChannelOffsetAndSensitivity (zeroFrame .fa)), some (.rspFaReset (zeroFrame .fa)),
      some (.rspFaReadCalibration (zeroFrame .fa)), some (.rspFaReportDCAPressure (zeroFrame .fa)),
      some (.rspFaReportDCAID (zeroFrame .fa)), some (.rspFaReportDCAStatus (zeroFrame .fa))] := by
  decide +kernel

/-- The FA exception responses: bits 7..0 are the code of R75 to R79. -/
theorem test_decode_exceptions_fa :
    [0x0091#16, 0x0092#16, 0x00C1#16, 0x00C9#16, 0x00CA#16, 0x00CB#16, 0x00CC#16, 0x00D0#16, 0x00D1#16,
      0x00EB#16, 0x00EE#16, 0x00F7#16, 0x00F8#16, 0x00F9#16].map bare =
    [some (.excFa145 (zeroFrame .fa)), some (.excFa146 (zeroFrame .fa)), some (.excFa193 (zeroFrame .fa)),
      some (.excFa201 (zeroFrame .fa)), some (.excFa202 (zeroFrame .fa)), some (.excFa203 (zeroFrame .fa)),
      some (.excFa204 (zeroFrame .fa)), some (.excFa208 (zeroFrame .fa)), some (.excFa209 (zeroFrame .fa)),
      some (.excFa235 (zeroFrame .fa)), some (.excFa238 (zeroFrame .fa)), some (.excFa247 (zeroFrame .fa)),
      some (.excFa248 (zeroFrame .fa)), some (.excFa249 (zeroFrame .fa))] := by
  decide +kernel

/-- The HA success responses: bits 7..0 are the function byte of R74 to R78. -/
theorem test_decode_responses_ha :
    [0x0111#16, 0x0112#16, 0x0141#16, 0x0042#16, 0x0043#16, 0x0150#16, 0x0151#16, 0x016B#16, 0x016E#16].map bare =
    [some (.rspHaReportServerID (zeroFrame .ha)), some (.rspHaReportServerStatus (zeroFrame .ha)),
      some (.rspHaChangeILCMode (zeroFrame .ha)), some (.rspHaStepMotor (zeroFrame .ha)),
      some (.rspHaElectromechanicalForceAndStatus (zeroFrame .ha)),
      some (.rspHaSetADCScanRate (zeroFrame .ha)),
      some (.rspHaSetADCChannelOffsetAndSensitivity (zeroFrame .ha)), some (.rspHaReset (zeroFrame .ha)),
      some (.rspHaReadCalibration (zeroFrame .ha))] := by
  decide +kernel

/-- The HA exception responses: bits 7..0 are the code of R75 to R79. -/
theorem test_decode_exceptions_ha :
    [0x0191#16, 0x0192#16, 0x01C1#16, 0x00C2#16, 0x00C3#16, 0x01D0#16, 0x01D1#16, 0x01EB#16, 0x01EE#16].map bare =
    [some (.excHa145 (zeroFrame .ha)), some (.excHa146 (zeroFrame .ha)), some (.excHa193 (zeroFrame .ha)),
      some (.excHa194 (zeroFrame .ha)), some (.excHa195 (zeroFrame .ha)), some (.excHa208 (zeroFrame .ha)),
      some (.excHa209 (zeroFrame .ha)), some (.excHa235 (zeroFrame .ha)), some (.excHa238 (zeroFrame .ha))] := by
  decide +kernel

/-- The HM success responses: bits 7..0 are the function byte of R74 to R78. -/
theorem test_decode_responses_hm :
    [0x0211#16, 0x0212#16, 0x0241#16, 0x026B#16, 0x0177#16, 0x0178#16, 0x0179#16, 0x007A#16].map bare =
    [some (.rspHmReportServerID (zeroFrame .hm)), some (.rspHmReportServerStatus (zeroFrame .hm)),
      some (.rspHmChangeILCMode (zeroFrame .hm)), some (.rspHmReset (zeroFrame .hm)),
      some (.rspHmReportHMPressure (zeroFrame .hm)), some (.rspHmReportHMMezzanineID (zeroFrame .hm)),
      some (.rspHmReportHMMezzanineStatus (zeroFrame .hm)), some (.rspHmReportLVDT (zeroFrame .hm))] := by
  decide +kernel

/-- The HM exception responses: bits 7..0 are the code of R75 to R79. -/
theorem test_decode_exceptions_hm :
    [0x0291#16, 0x0292#16, 0x02C1#16, 0x02EB#16, 0x01F7#16, 0x01F8#16, 0x01F9#16, 0x00FA#16].map bare =
    [some (.excHm145 (zeroFrame .hm)), some (.excHm146 (zeroFrame .hm)), some (.excHm193 (zeroFrame .hm)),
      some (.excHm235 (zeroFrame .hm)), some (.excHm247 (zeroFrame .hm)), some (.excHm248 (zeroFrame .hm)),
      some (.excHm249 (zeroFrame .hm)), some (.excHm250 (zeroFrame .hm))] := by
  decide +kernel

/-- The requests: bits 7..0 are the function byte of R164 to R189 where the rule gives one. -/
theorem test_decode_requests :
    [0x0311#16, 0x0312#16, 0x0341#16, 0x0250#16, 0x0251#16, 0x036B#16, 0x026E#16, 0x0277#16, 0x0278#16,
      0x0279#16, 0x0149#16, 0x014A#16, 0x0142#16, 0x0F06#16, 0x014B#16, 0x024B#16, 0x0F07#16, 0x014C#16,
      0x0143#16, 0x0F08#16, 0x0F09#16, 0x017A#16, 0x0F0A#16, 0x0377#16, 0x0378#16, 0x0379#16].map bare =
    [some (.reqReportServerID 0 0 0 []), some (.reqReportServerStatus 0 0 0 []),
      some (.reqChangeILCMode 0 0 0 []), some (.reqSetADCScanRate 0 0 0 []),
      some (.reqSetADCChannelOffsetAndSensitivity 0 0 0 []), some (.reqReset 0 0 0 []),
      some (.reqReadCalibration 0 0 0 []), some (.reqReportDCAPressure 0 0 0 []),
      some (.reqReportDCAID 0 0 0 []), some (.reqReportDCAStatus 0 0 0 []),
      some (.reqSetBoostValveDCAGains 0 0 0 []), some (.reqReadBoostValveDCAGains 0 0 0 []),
      some (.reqStepMotor 0 0 0 []), some (.reqStepMotorBroadcast 0 0 []),
      some (.reqForceDemandSingle 0 0 0 []), some (.reqForceDemandDual 0 0 0 []),
      some (.reqForceDemandBroadcast 0 0 []), some (.reqPneumaticForceStatus 0 0 0 []),
      some (.reqElectromechanicalForceAndStatus 0 0 0 []),
      some (.reqFreezeSensorValuesElectromechanical 0 0 []), some (.reqFreezeSensorValuesPneumatic 0 0 []),
      some (.reqReportLVDT 0 0 0 []), some (.reqNopReportLVDT 0 0 0 []), some (.reqReportHMPressure 0 0 0 []),
      some (.reqReportHMMezzanineID 0 0 0 []), some (.reqReportHMMezzanineStatus 0 0 0 [])] := by
  decide +kernel

/-- The interface operations have no word in the spec; their calls are the model's (log 1). -/
theorem test_decode_operations_1 :
    [0x0F10#16, 0x0F11#16, 0x0F12#16, 0x0F13#16, 0x0F14#16, 0x0F15#16, 0x0F16#16, 0x0F17#16, 0x0F18#16,
      0x0F19#16, 0x0F1A#16, 0x0F1B#16, 0x0F1C#16, 0x0F1D#16, 0x0F1E#16, 0x0F1F#16, 0x0F20#16, 0x0F21#16,
      0x0F22#16, 0x0F23#16, 0x0F24#16, 0x0F25#16, 0x0F26#16, 0x0F27#16].map bare =
    [some .reset, some (.load []), some (.writeU8 0), some (.writeI8 0), some (.writeU16 0),
      some (.writeI16 0), some (.writeI24 0), some (.writeU32 0), some (.writeI32 0), some (.writeSGL 0),
      some .readU8, some .readI8, some .readU16, some .readI16, some .readI24, some .readU32, some .readI32,
      some .readSGL, some .writeEndOfFrame, some .writeSoftwareTrigger, some (.writeDelay 0),
      some .writeTimestamp, some .writeTriggerIRQ, some (.writeLength 0)] := by
  decide +kernel

/-- The other interface operations (log 1). -/
theorem test_decode_operations_2 :
    [0x0F28#16, 0x0F29#16, 0x0F2A#16, 0x0F2B#16, 0x0F2C#16, 0x0F2D#16, 0x0F2E#16, 0x0F2F#16, 0x0F30#16,
      0x0F31#16, 0x0F32#16, 0x0F33#16, 0x0F34#16, 0x0F35#16, 0x0F36#16, 0x0F37#16, 0x0F38#16, 0x0F39#16,
      0x0F3A#16, 0x0F3B#16, 0x0F3C#16, 0x0F3D#16].map bare =
    [some .endOfBuffer, some .endOfFrame, some .skipToNextFrame, some .readTimestamp, some .readCRC,
      some (.crc16 []), some (.calculateCRC 0 0), some (.writeCRC 0), some (.checkFrameCRC 0 0),
      some (.encodeRequest 0 0 []), some (.addUnicast 0 0 0 0 []), some (.addBroadcast 0 0 0 0 []),
      some (.lookup 0 0), some (.actuatorIdOf .fa 0), some (.decodeBuffer 0 []), some (.decodeFrame 0),
      some (.dispatch (zeroFrame .fa) 0), some (.clearBusList 0), some (.runCycle 0 0), some .verifyResponses,
      some (.raise .responseTimeout 0), some (.loadConfiguration [])] := by
  decide +kernel

/-- A word that is no call is refused by name, and so is a call whose operands end too early. -/
theorem test_decode_refusals :
    refusalOf (step { start with port := [0x0FFF#16] }) = some (.undecodable (.unknownCall 0x0FFF#16)) ∧
      refusalOf (step { start with port := [0x0F12#16] }) = some (.undecodable .truncated) ∧
      refusalOf (step { start with port := [0x0F3C#16, 9#16, 0#16] }) = some (.undecodable .badOperand) := by
  decide +kernel

/-- The call 0x0F00 delivers its operand as a transport word; an orientation code past the four is decoded too
(log 1, R194 constraint 7). -/
theorem test_decode_delivered :
    [[0x0F00#16, 0x5002#16], [0x0F00#16, 0x8000#16 + 0x1296#16, 0#16],
        encode (.loadConfiguration [⟨1, 1, { fa0 with orientation := .other 9 }⟩])].map decoded =
      [some (.classData 0x5002#16), some (.txd 0x4B),
        some (.loadConfiguration [⟨1, 1, { fa0 with orientation := .other 9 }⟩])] := by decide +kernel

/-- An operand past 15 bits takes two words. -/
theorem test_decode_long_operand : decoded [0x0F24#16, 0x8001#16, 0x0001#16] = some (.writeDelay 32769) := by
  decide +kernel

/-! ### Transport words and the wire buffer (95_test_vectors.md §2, §4, §5) -/

/-- V-WORD-1, V-WB-1, V-WB-2. -/
theorem test_byte_writes :
    [.txd 0x4B, .writeU8 0x4B, .writeI8 (-2), .writeI8 (-128)].map writes =
      [some [0x1296#16], some [0x1296#16], some [0x13FC#16], some [0x1300#16]] := by decide

/-- V-WB-3, V-WB-4. -/
theorem test_word_writes :
    [.writeU16 0x1234, .writeU16 0x00FF, .writeI16 (-1), .writeI16 (-2)].map writes =
      [some [0x1224#16, 0x1268#16], some [0x1200#16, 0x13FE#16], some [0x13FE#16, 0x13FE#16],
        some [0x13FE#16, 0x13FC#16]] := by decide

/-- V-WB-5. -/
theorem test_writeI24 :
    [.writeI24 10000, .writeI24 (-1), .writeI24 8388607, .writeI24 (-8388608)].map writes =
      [some [0x1200#16, 0x124E#16, 0x1220#16], some [0x13FE#16, 0x13FE#16, 0x13FE#16],
        some [0x12FE#16, 0x13FE#16, 0x13FE#16], some [0x1300#16, 0x1200#16, 0x1200#16]] := by decide

/-- V-WB-6, V-WB-7, V-WB-8. -/
theorem test_long_writes :
    [.writeU32 0x01020304, .writeI32 1000, .writeI32 (-2147483648), .writeSGL 0x42C80000#32,
        .writeSGL 0x80000000#32].map writes =
      [some [0x1202#16, 0x1204#16, 0x1206#16, 0x1208#16], some [0x1200#16, 0x1200#16, 0x1206#16, 0x13D0#16],
        some [0x1300#16, 0x1200#16, 0x1200#16, 0x1200#16], some [0x1200#16, 0x1200#16, 0x1390#16, 0x1284#16],
        some [0x1200#16, 0x1200#16, 0x1200#16, 0x1300#16]] := by decide

/-- V-WB-9: the other float order. -/
theorem test_writeSGL_msb_first :
    see words (exec (.writeSGL 0x42C80000#32) { start with params := { params with floatOrder := .msbFirst } }) =
      some [0x1284#16, 0x1390#16, 0x1200#16, 0x1200#16] := by decide

/-- V-WB-31, R139; a control word is one word (R140 to R144). -/
theorem test_control_writes :
    writes .writeEndOfFrame = some [0xA000#16] ∧
      [.writeSoftwareTrigger, .writeDelay 3, .writeTimestamp, .writeTriggerIRQ, .writeLength 2, .cwLength 2,
        .cwSwTrigger, .cwDelay 3, .cwTimestamp, .cwTriggerIrq].map (fun i => see (fun t => t.len) (exec i start)) =
        List.replicate 10 (some 1) := by decide

/-- V-WB-20 and R11: at the last index a write fits, past it it faults; a write cuts off what stood behind. -/
theorem test_write_at_end :
    faultOf (exec (.writeU8 1) { start with idx := 64, len := 64 }) = some .bufferOverflow ∧
      see words (exec (.writeU8 1) { rx [0x9000#16, 0x9002#16, 0x9004#16] with idx := 1 }) =
        some [0x9000#16, 0x1202#16] := by decide

/-- V-WB-10, V-WB-11. -/
theorem test_byte_reads :
    [reads .readU8 [0x9096#16], reads .readU8 [0x9001#16], reads .readU8 [0x91FE#16], reads .readI8 [0x91FC#16],
        reads .readI8 [0x91FE#16], reads .readI8 [0x9100#16]] =
      [some (.int 0x4B, 1), some (.int 0, 1), some (.int 0xFF, 1), some (.int (-2), 1), some (.int (-1), 1),
        some (.int (-128), 1)] := by decide

/-- V-WB-12, V-WB-13. -/
theorem test_word_reads :
    [reads .readU16 [0x9024#16, 0x9068#16], reads .readI16 [0x91FE#16, 0x91FC#16],
        reads .readI16 [0x9100#16, 0x9000#16]] =
      [some (.int 0x1234, 2), some (.int (-2), 2), some (.int (-32768), 2)] := by decide

/-- V-WB-14. -/
theorem test_readI24 :
    [reads .readI24 [0x9000#16, 0x904E#16, 0x9020#16], reads .readI24 [0x91FE#16, 0x91FE#16, 0x91FE#16],
        reads .readI24 [0x9100#16, 0x9000#16, 0x9000#16], reads .readI24 [0x90FE#16, 0x91FE#16, 0x91FE#16]] =
      [some (.int 10000, 3), some (.int (-1), 3), some (.int (-8388608), 3), some (.int 8388607, 3)] := by decide

/-- V-WB-15, V-WB-16. -/
theorem test_long_reads :
    [reads .readU32 [0x9002#16, 0x9004#16, 0x9006#16, 0x9008#16],
        reads .readI32 [0x9000#16, 0x9000#16, 0x9006#16, 0x91D0#16],
        reads .readI32 [0x9100#16, 0x9000#16, 0x9000#16, 0x9000#16]] =
      [some (.int 0x01020304, 4), some (.int 1000, 4), some (.int (-2147483648), 4)] := by decide

/-- V-WB-17, V-WB-18. -/
theorem test_readSGL :
    [reads .readSGL [0x9000#16, 0x9000#16, 0x9190#16, 0x9084#16],
        reads .readSGL [0x9000#16, 0x9000#16, 0x9100#16, 0x90FE#16],
        reads .readSGL [0x9001#16, 0x9001#16, 0x9181#16, 0x90FF#16]] =
      [some (.float 0x42C80000#32, 4), some (.float 0x7F800000#32, 4), some (.float 0x7FC00000#32, 4)] := by decide

/-- V-WB-19, V-WB-24. -/
theorem test_read_end_and_crc :
    faultOf (exec .readU8 start) = some .bufferOverrun ∧
      reads .readCRC [0x91A6#16, 0x9114#16] = some (.word 0x8AD3#16, 2) := by decide

/-- V-WB-21, V-WB-22, V-WB-23. -/
theorem test_readTimestamp :
    [reads .readTimestamp [0xB034#16, 0xB012#16, 0xB000#16, 0xB000#16, 0xB000#16, 0xB000#16, 0xB000#16, 0xB000#16],
        reads .readTimestamp [0xB034#16, 0xB012#16, 0xB000#16, 0xA000#16], reads .readTimestamp [0x9002#16]] =
      [some (.stamp 0x1234#64, 8), some (.stamp 0x1234#64, 3), some (.stamp 0#64, 0)] := by decide

/-- V-WB-26, V-WB-27. -/
theorem test_skipToNextFrame :
    see (fun t => t.idx) (exec .skipToNextFrame (rx [0xA000#16, 0x9002#16])) = some 1 ∧
      see (fun t => t.idx) (exec .skipToNextFrame (rx [0x9002#16, 0xB000#16])) = some 2 := by decide

/-- V-WB-28, V-WB-29. -/
theorem test_ends :
    [reads .endOfFrame [0xA000#16], reads .endOfFrame [0xB012#16], reads .endOfFrame [], reads .endOfBuffer [],
        reads .endOfBuffer [0x9002#16]] =
      [some (.bool true, 0), some (.bool false, 0), some (.bool false, 0), some (.bool true, 0),
        some (.bool false, 0)] := by decide

/-- V-WB-30, R120. -/
theorem test_load_and_reset :
    see (fun t => (words t, t.len, t.idx)) (exec (.load [0x9002#16, 0x9084#16]) start) =
        some ([0x9002#16, 0x9084#16], 2, 0) ∧
      see (fun t => (words t, t.len, t.idx)) (exec .reset (rx [0x9002#16])) = some ([], 0, 0) := by decide

/-- V-WORD-2, V-WORD-3, V-WORD-6 (log 3). -/
theorem test_inbound_words :
    [reads (.rxd 0x4B) [], reads (.tsw 0x34) [], reads .eof [], reads (.classTs 0xB134#16) [],
        reads (.classEofw 0xA123#16) [], reads (.classData 0x5002#16) []] =
      [some (.int 0x4B, 1), some (.stamp 0x34#64, 1), some (.bool true, 1), some (.wordClass .ts, 0),
        some (.wordClass .eofw, 0), some (.wordClass .data, 0)] := by decide

/-! ### The CRC unit (95_test_vectors.md §3) -/

/-- V-CRC-1, V-CRC-2, V-CRC-4. -/
theorem test_crc16 :
    [crc16 [0x31, 0x32, 0x33, 0x34, 0x35, 0x36, 0x37, 0x38, 0x39], crc16 [0x01, 0x03, 0, 0, 0, 0x01],
        crc16 []] = [0x4B37#16, 0x0A84#16, 0xFFFF#16] := by decide +kernel

/-- V-CRC-5, V-CRC-6, V-CRC-8. -/
theorem test_crc16_step :
    see (fun t => t.ret) (exec (.crc16 [0x00]) start) = some (.word 0x40BF#16) ∧
      see (fun t => t.ret) (exec (.crc16 [0xFF]) start) = some (.word 0x00FF#16) ∧
      crc16 [0x01, 0x4B, 0, 0, 0, 0xC8, 0x42] = 0x8AD3#16 := by decide +kernel

/-- V-CRC-7. -/
theorem test_writeCRC :
    see words (exec (.writeCRC 2) { rx [0x1202#16, 0x1222#16] with idx := 2 }) =
      some [0x1202#16, 0x1222#16, 0x1380#16, 0x1258#16] := by decide +kernel

/-- V-CRC-10, V-CRC-11. -/
theorem test_writeCRC_faults :
    faultOf (exec (.writeCRC 3) { rx [0x1202#16, 0x1222#16] with idx := 2 }) = some .crcSpanInvalid ∧
      faultOf (exec (.writeCRC 2) { rx [0xA000#16, 0x1202#16] with idx := 2 }) = some .crcSpanInvalid := by
  decide +kernel

/-- V-CRC-12, and the span of V-CRC-7 by its received words. -/
theorem test_calculateCRC :
    reads (.calculateCRC 0 0) [] = some (.word 0xFFFF#16, 0) ∧
      reads (.calculateCRC 0 2) [0x9002#16, 0x9022#16] = some (.word 0x2CC0#16, 0) ∧
      faultOf (exec (.calculateCRC 0 1) start) = some .bufferOverrun := by decide +kernel

/-- R103 on V-DEC-4's frame. -/
theorem test_checkFrameCRC :
    reads (.checkFrameCRC 0 4) [0x9002#16, 0x9084#16, 0x9100#16, 0x9022#16] = some (.bool true, 0) ∧
      reads (.checkFrameCRC 0 4) [0x9002#16, 0x9086#16, 0x9100#16, 0x9022#16] = some (.bool false, 0) := by
  decide +kernel

/-! ### The request encoder (95_test_vectors.md §6) -/

/-- Shorter frames complete too: for two words R103's code is run on no byte, and below two words both values are
free (log 28). -/
theorem test_checkFrameCRC_short :
    see (fun t => (t.crcCalc, t.crcRx, t.ret)) (exec (.checkFrameCRC 0 2) (rx [0x9002#16, 0x9084#16])) =
        some (0xFFFF#16, 0x4201#16, .bool false) ∧
      see (fun t => (t.freeCount, t.idx)) (exec (.checkFrameCRC 0 1) (rx [0x9002#16])) = some (2, 0) ∧
      see (fun t => t.freeCount) (exec (.checkFrameCRC 9 0) start) = some 2 := by decide +kernel

/-- The frame a request queues on an empty bus list 7. -/
def queues (i : Instr) : Option (List (List Word)) := see (fun t => (busList 7 t).map fun it => it.words) (exec i start)

/-- V-ENC-1, V-ENC-2, V-ENC-3. -/
theorem test_requests_17_18_65 :
    [.reqReportServerID 7 1 1 [], .reqReportServerStatus 7 1 1 [], .reqChangeILCMode 7 1 1 [0, 2]].map queues =
      [some [[0x1202#16, 0x1222#16, 0x1380#16, 0x1258#16]], some [[0x1202#16, 0x1224#16, 0x1300#16, 0x125A#16]],
        some [[0x1202#16, 0x1282#16, 0x1200#16, 0x1204#16, 0x13A0#16, 0x121A#16]]] := by decide +kernel

/-- V-ENC-4 to V-ENC-7. -/
theorem test_requests_80_81_107_110 :
    [.reqSetADCScanRate 7 1 1 [], .reqSetADCChannelOffsetAndSensitivity 7 1 1 [], .reqReset 7 1 1 [],
        .reqReadCalibration 7 1 1 []].map queues =
      [some [[0x1202#16, 0x12A0#16, 0x1200#16, 0x1238#16]], some [[0x1202#16, 0x12A2#16, 0x1382#16, 0x13B8#16]],
        some [[0x1202#16, 0x12D6#16, 0x1282#16, 0x139E#16]],
        some [[0x1202#16, 0x12DC#16, 0x1302#16, 0x1398#16]]] := by decide +kernel

/-- V-ENC-8 to V-ENC-12. -/
theorem test_requests_119_to_74 :
    [.reqReportDCAPressure 7 1 1 [], .reqReportDCAID 7 1 1 [], .reqReportDCAStatus 7 1 1 [],
        .reqSetBoostValveDCAGains 7 1 17 [], .reqReadBoostValveDCAGains 7 1 17 []].map queues =
      [some [[0x1202#16, 0x12EE#16, 0x1280#16, 0x120C#16]], some [[0x1202#16, 0x12F0#16, 0x1200#16, 0x1204#16]],
        some [[0x1202#16, 0x12F2#16, 0x1382#16, 0x1384#16]], some [[0x1222#16, 0x1292#16, 0x1398#16, 0x122C#16]],
        some [[0x1222#16, 0x1294#16, 0x1318#16, 0x122E#16]]] := by decide +kernel

/-- V-ENC-13 to V-ENC-18. -/
theorem test_requests_forces :
    [.reqStepMotor 7 5 1 [], .reqForceDemandSingle 7 1 1 [0, 0x27, 0x10],
        .reqForceDemandDual 7 1 17 [0, 0x27, 0x10, 0xFF, 0xD8, 0xF0], .reqPneumaticForceStatus 7 1 17 [],
        .reqElectromechanicalForceAndStatus 7 5 1 []].map queues =
      [some [[0x1202#16, 0x1284#16, 0x1300#16, 0x1222#16]],
        some [[0x1202#16, 0x1296#16, 0x1200#16, 0x124E#16, 0x1220#16, 0x1228#16, 0x1230#16]],
        some [[0x1222#16, 0x1296#16, 0x1200#16, 0x124E#16, 0x1220#16, 0x13FE#16, 0x13B0#16, 0x13E0#16, 0x1242#16,
          0x12F8#16]],
        some [[0x1222#16, 0x1298#16, 0x1218#16, 0x122A#16]],
        some [[0x1202#16, 0x1286#16, 0x1282#16, 0x13A2#16]]] := by decide +kernel

/-- V-ENC-19 to V-ENC-22. -/
theorem test_requests_hm :
    [.reqReportLVDT 7 5 84 [], .reqReportHMPressure 7 5 84 [], .reqReportHMMezzanineID 7 5 84 [],
        .reqReportHMMezzanineStatus 7 5 84 []].map queues =
      [some [[0x12A8#16, 0x12F4#16, 0x137C#16, 0x1326#16]], some [[0x12A8#16, 0x12EE#16, 0x12FE#16, 0x12AC#16]],
        some [[0x12A8#16, 0x12F0#16, 0x127E#16, 0x12A4#16]],
        some [[0x12A8#16, 0x12F2#16, 0x13FC#16, 0x1324#16]]] := by decide +kernel

/-- V-ENC-23 by its general form (R161), and R160's returned words. -/
theorem test_addUnicast_encodeRequest :
    queues (.addUnicast 7 1 1 75 [1, 0x86, 0xA0]) =
        some [[0x1202#16, 0x1296#16, 0x1202#16, 0x130C#16, 0x1340#16, 0x127A#16, 0x13F8#16]] ∧
      see (fun t => (t.ret, t.idx)) (exec (.encodeRequest 1 17 []) start) =
        some (.words [0x1202#16, 0x1222#16, 0x1380#16, 0x1258#16], 4) := by decide +kernel

/-- V-ENC-25, V-ENC-26. -/
theorem test_unmapped_requests :
    faultOf (exec (.addUnicast 7 1 5 75 []) start) = some .unmappedRequest ∧
      faultOf (exec (.addBroadcast 7 1 17 75 []) start) = some .unmappedRequest := by decide +kernel

/-- What a broadcast queues from counter 14: its address, its function, its first payload word. -/
def broadcasts (i : Instr) : Option (List (Byte × Byte × Option Word)) :=
  see (fun t => (busList 7 t).map fun it => (it.address, it.function, it.words[2]?)) (exec i { start with bcastCtr := 14 })

/-- R177, R180, R183, R184 with the example function codes of `params`; V-ENC-27's embedding of 14 in nibble 0. -/
theorem test_broadcasts :
    [.reqStepMotorBroadcast 7 1 [0x20], .reqForceDemandBroadcast 7 1 [0x20],
        .reqFreezeSensorValuesElectromechanical 7 1 [0x20], .reqFreezeSensorValuesPneumatic 7 1 [0x20],
        .addBroadcast 7 1 249 1 [0x20]].map broadcasts =
      [some [(249, 66, some 0x125C#16)], some [(248, 75, some 0x125C#16)], some [(248, 68, some 0x125C#16)],
        some [(248, 69, some 0x125C#16)], some [(249, 1, some 0x125C#16)]] := by decide +kernel

/-- R162: a broadcast expects no response and has no channel. -/
theorem test_broadcast_expects :
    see (fun t => (busList 7 t).map fun it => (it.broadcast, it.expects, it.channel))
      (exec (.reqForceDemandBroadcast 7 1 []) start) = some [(true, false, none)] := by decide +kernel

/-- R163: the counter wraps. R186: NopReportLVDT has its parameter's function code. -/
theorem test_counter_wraps_nop :
    see (fun t => t.bcastCtr) (exec (.addBroadcast 7 1 248 1 [0]) { start with bcastCtr := 15 }) = some 0 ∧
      see (fun t => (busList 7 t).map fun it => (it.function, it.expects)) (exec (.reqNopReportLVDT 7 5 84 []) start) =
        some [(123, true)] := by decide +kernel

/-- R162, R178, R179 for operands no rule restricts (log 28): a broadcast of any subnet number, and a force demand to
any mapped address. -/
theorem test_unrestricted_requests :
    see (fun t => (busList 7 t).map fun it => (it.subnet, it.broadcast)) (exec (.addBroadcast 7 0 248 75 [0]) start) =
        some [(0, true)] ∧
      see (fun t => (busList 7 t).map fun it => (it.address, it.function))
        (exec (.reqForceDemandSingle 7 1 17 []) start) = some [(17, 75)] := by decide +kernel

/-! ### The address map (95_test_vectors.md §7) -/

/-- What `lookup` returns. -/
def found (sub : Int) (a : Byte) : Option Ret := see (fun t => t.ret) (exec (.lookup sub a) start)

/-- V-MAP-1, V-MAP-2, V-MAP-3. -/
theorem test_lookup :
    [found 1 17, found 1 5, found 1 248, found 5 17, found 0 1, found 6 1] =
      [some (.found (.channel fa1)), some (.found .invalid), some (.found .invalid), some (.found .invalid),
        some (.found .unknownSubnet), some (.found .unknownSubnet)] := by decide

/-- V-MAP-5. -/
theorem test_actuatorIdOf :
    see (fun t => t.ret) (exec (.actuatorIdOf .fa 1) start) = some (.int 117) ∧
      see (fun t => t.ret) (exec (.actuatorIdOf .ha 3) start) = some (.int (-1)) := by decide

/-- An orientation outside the four values breaks constraint 7 of R194. -/
theorem test_bad_orientation :
    faultOf (exec (.loadConfiguration [⟨1, 1, { fa0 with orientation := .other 0 }⟩]) start) = some .configInvalid := by
  decide

/-- V-MAP-4. -/
theorem test_bad_maps :
    [[⟨4, 84, hm0⟩], [⟨1, 17, { fa1 with secondaryDataIndex := -1 }⟩], [⟨1, 249, fa0⟩]].map
        (fun es => faultOf (exec (.loadConfiguration es) start)) =
      [some .configInvalid, some .configInvalid, some .configInvalid] := by decide

/-- R372: the load builds the map, sizes the counters and is held while a cycle runs. -/
theorem test_loadConfiguration :
    see (fun t => (lookup 5 84 t, t.faExp, t.hmExp, t.configured))
        (exec (.loadConfiguration exampleMap) { start with ilcMap := [], faExp := [], configured := false }) =
      some (.channel hm0, [0, 0], [0], true) ∧
      see (fun t => t.port)
        (exec (.loadConfiguration []) { start with cycleBusy := true, phase := .wait .two }) =
      some (encode (.loadConfiguration [])) := by decide +kernel

/-! ### The validator (95_test_vectors.md §8) -/

/-- TS8 and the end of the frame. -/
def tail : List Word :=
  [0xB034#16, 0xB012#16, 0xB000#16, 0xB000#16, 0xB000#16, 0xB000#16, 0xB000#16, 0xB000#16, 0xA000#16]

/-- V-DEC-1's words. -/
def dec1 : List Word :=
  [0x9002#16, 0x9096#16, 0x9000#16, 0x9000#16, 0x9000#16, 0x9190#16, 0x9084#16, 0x91A6#16, 0x9114#16] ++ tail

/-- V-DEC-2's words. -/
def dec2 : List Word :=
  [0x9002#16, 0x9096#16, 0x9002#16, 0x9000#16, 0x9000#16, 0x9190#16, 0x9084#16, 0x91A6#16, 0x9114#16] ++ tail

/-- V-DEC-6's words. -/
def dec6 : List Word :=
  [0x9002#16, 0x9086#16, 0x9000#16, 0x9000#16, 0x9000#16, 0x9006#16, 0x91D0#16, 0x9000#16, 0x9000#16, 0x9090#16,
    0x9082#16, 0x90CC#16, 0x91AE#16] ++ tail

/-- V-DEC-8's words. -/
def dec8 : List Word :=
  [0x9022#16, 0x9096#16, 0x9000#16, 0x9000#16, 0x9000#16, 0x9190#16, 0x9084#16, 0x9000#16, 0x9000#16, 0x9090#16,
    0x9084#16, 0x91F6#16, 0x913E#16] ++ tail

/-- The warnings, frames (by function code) and timeout reports among some events. -/
inductive Seen where
  | warning (k : Option WarnKind) (aid : Int)
  | frame (fn : Byte)
  | report (any : Bool)
  deriving DecidableEq, Repr

/-- What is seen of the events after the first `n`. -/
def seen (n : Nat) (s : State) : List Seen :=
  (s.out.drop n).filterMap fun e =>
    match e with
    | .warning w => some (.warning w.kind w.actuatorId)
    | .frame r => some (.frame r.function)
    | .ilcCommunicationTimeout b => some (.report b)
    | _ => none

/-- Decoding a buffer with one response awaited of each FA channel. -/
def decodes (sub : Int) (ws : List Word) : Option (List Seen × List Int × Nat) :=
  see (fun t => (seen 0 t, t.faExp, t.idx)) (exec (.decodeBuffer sub ws) { start with faExp := [1, 1] })

/-- V-DEC-1, V-DEC-2. -/
theorem test_decodeBuffer :
    decodes 1 dec1 = some ([.frame 75], [0, 1], 18) ∧
      decodes 1 dec2 = some ([.warning (some .invalidCRC) (-1)], [1, 1], 18) := by decide +kernel

/-- V-DEC-3 and its variants. -/
theorem test_exception_responses :
    [[0x9002#16, 0x9196#16, 0x9006#16, 0x906E#16, 0x9062#16], [0x9002#16, 0x9196#16, 0x9002#16, 0x916C#16, 0x91E0#16],
        [0x9002#16, 0x9196#16, 0x9008#16, 0x90EC#16, 0x91E6#16],
        [0x9002#16, 0x9196#16, 0x9000#16, 0x90EE#16, 0x9060#16]].map (fun ws => decodes 1 (ws ++ tail)) =
      [some ([.warning (some .illegalDataValue) 101], [0, 1], 14),
        some ([.warning (some .illegalFunction) 101], [0, 1], 14),
        some ([.warning (some .unknownProblem) 101], [0, 1], 14),
        some ([.warning (some .unknownProblem) 101], [0, 1], 14)] := by decide +kernel

/-- V-DEC-4, V-DEC-5, V-DEC-9, V-DEC-12. -/
theorem test_unknowns :
    [decodes 1 ([0x9002#16, 0x9084#16, 0x9100#16, 0x9022#16] ++ tail),
        decodes 1 ([0x900A#16, 0x9096#16, 0x9000#16, 0x9000#16, 0x9000#16, 0x9190#16, 0x9084#16, 0x912C#16,
          0x9094#16] ++ tail),
        decodes 1 ([0x9022#16, 0x9096#16, 0x9000#16, 0x9000#16, 0x9000#16, 0x9190#16, 0x9084#16, 0x9184#16,
          0x9096#16] ++ tail),
        decodes 6 dec1] =
      [some ([.warning (some .unknownFunction) 101], [0, 1], 13),
        some ([.warning (some .unknownAddress) (-1)], [1, 1], 18),
        some ([.warning (some .invalidLength) 117], [1, 0], 18),
        some ([.warning (some .unknownSubnet) (-1)], [1, 1], 18)] := by decide +kernel

/-- V-DEC-10, V-DEC-11, V-DEC-14, V-DEC-17. -/
theorem test_short_frames :
    [decodes 1 [0x9002#16, 0x9084#16, 0xA000#16], decodes 1 ([0x9002#16, 0x9084#16, 0x9100#16] ++ tail), decodes 1 [],
        decodes 1 (0xB000#16 :: dec1)] =
      [some ([.warning (some .invalidLength) (-1)], [1, 1], 3), some ([.warning (some .invalidLength) (-1)], [1, 1], 12),
        some ([], [1, 1], 0), some ([.warning (some .invalidLength) (-1)], [1, 1], 19)] := by decide +kernel

/-- V-DEC-13, V-DEC-15, V-DEC-16. -/
theorem test_resynchronisation :
    [decodes 1 (dec2 ++ dec1), decodes 1 ([0x9002#16, 0x9196#16, 0x9006#16, 0x9006#16, 0x9060#16, 0x91AE#16] ++ tail),
        decodes 1 (dec1.take 12 ++ [0xA000#16])] =
      [some ([.warning (some .invalidCRC) (-1), .frame 75], [0, 1], 36),
        some ([.warning (some .invalidLength) 101], [0, 1], 15), some ([.frame 75], [0, 1], 13)] := by decide +kernel

/-- V-DEC-18, V-DEC-19, V-DEC-20, V-DEC-8. -/
theorem test_more_frames :
    [decodes 1 ([0x9002#16, 0x9184#16, 0x9002#16, 0x9160#16, 0x9140#16] ++ tail),
        decodes 1 (0x1202#16 :: dec1.tail), decodes 1 (dec1.take 12), decodes 1 dec8] =
      [some ([.warning (some .unknownFunction) 101], [0, 1], 14), some ([.frame 75], [0, 1], 18),
        some ([.frame 75], [0, 1], 12), some ([.frame 75], [1, 0], 22)] := by decide +kernel

/-- R211 to R217 on V-DEC-1, the first frame of a buffer of two. -/
theorem test_decodeFrame_registers :
    see (fun t => (t.fs, t.tail, t.n, t.crcCalc, t.crcRx, t.ts)) (exec (.decodeFrame 1) (rx (dec1 ++ dec2))) =
      some (0, 9, 9, 0x8AD3#16, 0x8AD3#16, 0x1234#64) := by decide +kernel

/-- R217, R225: the address, the function, the channel, and the cursor at the next frame. -/
theorem test_decodeFrame_channel :
    see (fun t => (t.addr, t.fn, t.ch, t.idx)) (exec (.decodeFrame 1) (rx (dec1 ++ dec2))) =
      some (1, 75, some fa0, 18) := by decide +kernel

/-- I2's alternative: a bad CRC takes one from the counter of the unverified address. -/
theorem test_bad_crc_alternative :
    see (fun t => t.faExp) (exec (.decodeBuffer 1 dec2)
      { start with faExp := [1, 1], params := { params with decrOnBadCrc := true } }) = some [0, 1] := by decide +kernel

/-! ### Handlers and checks (95_test_vectors.md §9) -/

/-- The events a response row adds, with the payload words `ws` at the cursor. -/
def handles (i : Routed → Instr) (c : ILCMap) (addr : Byte) (ws : List Word) : Option (List Event) :=
  see (fun t => t.out) (exec (i (frame c addr ws.length)) (rx ws))

/-- The fields of the last frame record. -/
def fieldsOf (l : Option (List Event)) : Option Fields :=
  match l.bind List.getLast? with
  | some (.frame r) => some r.fields
  | _ => none

/-- R254, V-H-1, R256. -/
theorem test_rsp_17_18_65 :
    fieldsOf (handles .rspFaReportServerID fa0 1 (List.replicate 12 0x9002#16)) =
        some (.serverID (List.replicate 12 1)) ∧
      fieldsOf (handles .rspFaReportServerStatus fa0 1 [0x9000#16, 0x9004#16, 0x9000#16, 0x9000#16, 0x9000#16,
        0x9002#16]) = some (.serverStatus 2 0 1) ∧
      fieldsOf (handles .rspFaChangeILCMode fa0 1 [0x9002#16, 0x9004#16]) = some (.mode 0x0102) := by decide

/-- The same three of HA and HM. -/
theorem test_rsp_17_18_65_ha_hm :
    [handles .rspHaReportServerID ha0 1 (List.replicate 12 0x9002#16),
        handles .rspHmReportServerID hm0 84 (List.replicate 12 0x9002#16)].map fieldsOf =
        [some (.serverID (List.replicate 12 1)), some (.serverID (List.replicate 12 1))] ∧
      [handles .rspHaReportServerStatus ha0 1 (List.replicate 6 0x9002#16),
        handles .rspHmReportServerStatus hm0 84 (List.replicate 6 0x9002#16)].map fieldsOf =
        [some (.serverStatus 257 257 257), some (.serverStatus 257 257 257)] ∧
      [handles .rspHaChangeILCMode ha0 1 [0x9000#16, 0x9004#16],
        handles .rspHmChangeILCMode hm0 84 [0x9000#16, 0x9004#16]].map fieldsOf = [some (.mode 2), some (.mode 2)] := by
  decide

/-- The rows whose default length is 0 deliver an empty payload (R81, R251). -/
theorem test_rsp_empty :
    [handles .rspFaSetBoostValveDCAGains fa0 1 [], handles .rspFaSetADCScanRate fa0 1 [],
        handles .rspFaSetADCChannelOffsetAndSensitivity fa0 1 [], handles .rspFaReset fa0 1 [],
        handles .rspFaReportDCAID fa0 1 [], handles .rspHaSetADCScanRate ha0 1 [],
        handles .rspHaSetADCChannelOffsetAndSensitivity ha0 1 [], handles .rspHaReset ha0 1 [],
        handles .rspHmReset hm0 84 [], handles .rspHmReportHMMezzanineID hm0 84 []].map fieldsOf =
      List.replicate 10 (some (.raw [])) := by decide

/-- R267, R283: an unsigned integer of k bytes, here k = 2 by an overridden length. -/
theorem test_rsp_121 :
    [Instr.rspFaReportDCAStatus (frame fa0 1 2), .rspHmReportHMMezzanineStatus (frame hm0 84 2)].map (fun i =>
        fieldsOf (see (fun t => t.out)
          (exec i { rx [0x9002#16, 0x9004#16] with params := { params with len121 := 2 } }))) =
      [some (.statusBits 0x0102), some (.statusBits 0x0102)] := by decide

/-- R258, R284 with the floats of V-DEC-7. -/
theorem test_rsp_two_floats :
    [handles .rspFaReadBoostValveDCAGains fa0 1 [0x9000#16, 0x9000#16, 0x9100#16, 0x907E#16, 0x9000#16, 0x9000#16,
          0x9180#16, 0x907E#16],
        handles .rspHmReportLVDT hm0 84 [0x9000#16, 0x9000#16, 0x9100#16, 0x907E#16, 0x9000#16, 0x9000#16, 0x9180#16,
          0x907E#16]].map fieldsOf =
      [some (.gains 0x3F800000#32 0x3FC00000#32), some (.lvdt 0x3F800000#32 0x3FC00000#32)] := by decide

/-- R264, R276, R265: 24 and 4 floats. -/
theorem test_rsp_many_floats :
    [handles .rspFaReadCalibration fa0 1 (List.replicate 96 0x9002#16),
        handles .rspHaReadCalibration ha0 1 (List.replicate 96 0x9002#16)].map fieldsOf =
        List.replicate 2 (some (.calibration (List.replicate 24 0x01010101#32))) ∧
      fieldsOf (handles .rspFaReportDCAPressure fa0 1 (List.replicate 16 0x9002#16)) =
        some (.pressure (List.replicate 4 0x01010101#32)) := by decide +kernel

/-- What a force record holds but for the conversions, which are open (R259, R260). -/
def forcesOf (l : Option (List Event)) : Option (Nat × F32 × Option F32 × Bool × Bool) :=
  match fieldsOf l with
  | some (.forces status primary secondary x y _) => some (status, primary, secondary, x.isSome, y.isSome)
  | _ => none

/-- V-DEC-1, V-DEC-8: the forces, and which axes are written. -/
theorem test_rsp_forces :
    forcesOf (handles .rspFaForceDemand fa0 1 [0x9000#16, 0x9000#16, 0x9000#16, 0x9190#16, 0x9084#16]) =
        some (0, 0x42C80000#32, none, false, false) ∧
      forcesOf (handles .rspFaPneumaticForceStatus fa1 17 [0x9000#16, 0x9000#16, 0x9000#16, 0x9190#16, 0x9084#16,
        0x9000#16, 0x9000#16, 0x9090#16, 0x9084#16]) =
        some (0, 0x42C80000#32, some 0x42480000#32, false, true) := by decide +kernel

/-- V-DEC-6: inverted encoder and force, displacement, and the two reports before the record. -/
theorem test_rsp_electromechanical :
    [fieldsOf (handles .rspHaStepMotor ha0 1 [0x9000#16, 0x9000#16, 0x9000#16, 0x9006#16, 0x91D0#16, 0x9000#16, 0x9000#16,
          0x9090#16, 0x9082#16]),
        fieldsOf (handles .rspHaElectromechanicalForceAndStatus ha0 1 [0x9000#16, 0x9000#16, 0x9000#16, 0x9006#16,
          0x91D0#16, 0x9000#16, 0x9000#16, 0x9090#16, 0x9082#16])] =
      List.replicate 2 (some (.electromechanical 0 (-1000) 0xC1480000#32 (whole (-2000)))) := by decide +kernel

/-- V-H-2: the extreme encoder, and minus zero. -/
theorem test_inversion_corners :
    fieldsOf (handles .rspHaStepMotor ha0 1 [0x9000#16, 0x9100#16, 0x9000#16, 0x9000#16, 0x9000#16, 0x9000#16, 0x9000#16,
      0x9000#16, 0x9100#16]) = some (.electromechanical 0 2147483648 0#32 (whole 4294967296)) := by decide +kernel

/-- A small whole number's binary32 pattern, for the rows of §9. -/
def f32_m1000 : F32 := 0xC47A0000#32

/-- V-CHK-A: the five frames, each with the flag before it. -/
theorem test_limit_flags :
    [(false, 0x42C80000#32), (false, 0x44960000#32), (true, 0x44960000#32), (true, f32_m1000),
        (false, 0x7FC00000#32)].map (fun x : Bool × F32 =>
      let t := checkForces fa0 x.2 none { start with
        limitFlag := [⟨x.1, false⟩, ⟨false, false⟩]
        env := { quiet with commands := [⟨0, .primary, if x.2 = f32_m1000 then -1000000 else
          if x.2 = 0x44960000#32 then 1200000 else 100000⟩] } }
      ((flagsAt t.limitFlag 0).primary, t.out.length)) =
      [(false, 1), (true, 2), (true, 1), (false, 2), (false, 1)] := by decide +kernel

/-- R292, R293, log 20: a force beyond its limits on an index outside the flag arrays is reported, not republished. -/
theorem test_no_flags :
    [-1, 2].map (fun i : Int => (checkForces { fa0 with dataIndex := i } 0x44960000#32 none start).out) =
      List.replicate 2 [.forceActuatorFollowingError 101 true false] := by decide +kernel

/-- V-CHK-B: the three rows, each with the flag before it: the flag after, and the events. -/
theorem test_following_error :
    [(false, 0x42C80000#32), (false, 0x42BDCCCD#32), (true, 0x42BE0000#32)].map (fun x : Bool × F32 =>
      let t := checkForces fa0 x.2 none { start with feFlag := [⟨x.1, false⟩, ⟨false, false⟩] }
      ((flagsAt t.feFlag 0).primary, t.out.length, t.out.getLast?)) =
      [(false, 1, some (.forceActuatorFollowingError 101 false false)),
        (true, 2, some (.forceActuatorFollowingError 101 true false)),
        (false, 2, some (.forceActuatorFollowingError 101 false false))] := by decide +kernel

/-- V-CHK-C: -12.5, 90, 70, 70 with force balance, 90 when parked, 101 when raising. -/
theorem test_load_cell :
    [(0xC1480000#32, 2, false), (0x42B40000#32, 2, false), (0x428C0000#32, 2, false), (0x428C0000#32, 2, true),
        (0x42B40000#32, 9, false), (0x42CA0000#32, 1, false)].map (fun x : F32 × Nat × Bool =>
      (checkLoadCell ha0 x.1 { start with
        env := { quiet with detailedState := x.2.1, forceBalance := x.2.2 } }).out) =
      [(false, false), (false, true), (false, false), (false, true), (false, false), (true, false)].map
        (fun y => [.hardpointActuatorLoadCellError 1 y.1, .hardpointActuatorMeasuredForce 1 y.2]) := by decide +kernel

/-- V-CHK-D: 5, 10, 15, 20, 60, 100, 101 and a NaN in Raising, Active, Lowering and another state. -/
theorem test_air_pressure :
    [0x40A00000#32, 0x41200000#32, 0x41700000#32, 0x41A00000#32, 0x42700000#32, 0x42C80000#32, 0x42CA0000#32,
        0x7FC00000#32].map (fun p => [1, 2, 3, 9].map fun st =>
          (checkAirPressure hm0 p { start with env := { quiet with detailedState := st } }).out) =
      [[-1, -1, -1, 0], [0, -1, -1, 0], [0, -1, -1, 0], [0, 0, 0, 0], [0, 0, 0, 0], [0, 0, 0, 0], [1, 1, 1, 0],
        [0, 0, 0, 0]].map (fun l => l.map fun r => [Event.hardpointActuatorAirPressure 0 r]) := by decide +kernel

/-- R281, R296: the report stands before the record. -/
theorem test_rsp_hm_pressure :
    (handles .rspHmReportHMPressure hm0 84 ([0x9000#16, 0x9000#16, 0x9140#16, 0x9080#16] ++
        List.replicate 12 0x9000#16)).map List.head? = some (some (.hardpointActuatorAirPressure 0 (-1))) := by
  decide +kernel

/-- R223 on a row of each device type: exception byte 3, and a second byte too many. -/
theorem test_exc_rows :
    [Instr.excFa203 (frame fa0 1 1), .excHa194 (frame ha0 1 1), .excHm250 (frame hm0 84 1), .excFa145 (frame fa0 1 2)].map
        (fun i => see (fun t => (seen 0 t, t.idx)) (exec i (rx [0x9006#16, 0x9006#16]))) =
      [some ([.warning (some .illegalDataValue) 101], 1), some ([.warning (some .illegalDataValue) 1], 1),
        some ([.warning (some .illegalDataValue) 84], 1), some ([.warning (some .invalidLength) 101], 0)] := by decide

/-- R221, R80: an HM 122 and an HA 195 by dispatch, and a code of no set. -/
theorem test_dispatch :
    [Instr.dispatch (frame hm0 84 8) 122, .dispatch (frame ha0 1 1) 195, .dispatch (frame ha0 1 1) 75].map
        (fun i => see (seen 0) (exec i (rx (List.replicate 8 0x9002#16)))) =
      [some [.frame 122], some [.warning (some .illegalFunction) 1], some [.warning (some .unknownFunction) 1]] := by
  decide +kernel

/-! ### The sequencer (95_test_vectors.md §10, §11) -/

/-- The item of one request. -/
def item (sub : Int) (a f : Byte) (c : ILCMap) (payload : List Byte) : Item :=
  ⟨sub, a, f, false, true, some c, requestWords a f payload⟩

/-- P1's bus list FD. -/
def listFD : List Item :=
  [item 1 1 75 fa0 [1, 0x86, 0xA0], item 1 17 75 fa1 [1, 0x86, 0xA0, 0, 0xC3, 0x50]]

/-- A state whose bus list 7 is `l` and whose subnets 1 and 5 behave as given. -/
def bus (l : List Item) (s1 s5 : Bool) (rx1 rx5 : List Word) : State :=
  { start with
    busLists := [(7, l)]
    env := { quiet with signal := ⟨s1, false, false, false, s5⟩, rx := ⟨rx1, [], [], [], rx5⟩ } }

/-- What a cycle of bus list 7 leaves: the warnings, frames and report, the counters, and
whether the block is idle. -/
def runs (s : State) : Option (List Seen × List Int × List Int × List Int × Bool) :=
  see (fun t => (seen 0 t, t.faExp, t.haExp, t.hmExp, decide (t.phase = .idle))) (exec (.runCycle 7 0x100) s)

/-- Program P1. -/
theorem test_P1 :
    runs (bus listFD true false (dec1 ++ dec8) []) =
      some ([.frame 75, .frame 75, .report false], [0, 0], [0], [0], true) := by decide +kernel

/-- Program P2. -/
theorem test_P2 :
    runs (bus [item 1 1 75 fa0 [1, 0x86, 0xA0], item 5 1 67 ha0 []] true true (dec2 ++ dec1) dec6) =
      some ([.warning (some .invalidCRC) (-1), .frame 75, .frame 67, .report false], [0, 0], [0], [0], true) := by
  decide +kernel

/-- Program P3. -/
theorem test_P3 :
    runs (bus listFD true false dec1 []) =
      some ([.frame 75, .warning (some .responseTimeout) 117, .report true], [0, 0], [0], [0], true) := by
  decide +kernel

/-- Program P4, its first cycle. -/
theorem test_P4_silent :
    runs (bus [item 5 84 122 hm0 []] false false [] []) =
      some ([.warning (some .responseTimeout) 84, .report true], [0, 0], [0], [0], true) := by decide +kernel

/-- Program P4, its second cycle. -/
theorem test_P4_stale :
    runs (bus [] true false dec1 []) =
      some ([.frame 75, .warning (some .responseTimeout) 101, .report true], [0, 0], [0], [0], true) := by
  decide +kernel

/-- R301, R304, R374: the cycle of an empty bus list writes no words (log 40), and reports. -/
theorem test_empty_list :
    see (fun t => t.out) (exec (.runCycle 7 1) start) =
      some [.transportWrite [] 0 start.params.writeTimeoutMs, .ilcCommunicationTimeout false] := by decide +kernel

/-- V-SEQ-1, V-SEQ-4. -/
theorem test_issue :
    (issueItems listFD start).faExp = [1, 1] ∧
      (issueItems [item 1 1 75 fa0 [], item 1 1 76 fa0 []] start).faExp = [2, 0] := by decide

/-- V-SEQ-5: a request during a cycle is held, and the cycle goes on by one phase. -/
theorem test_held_cycle :
    see (fun t => (t.port, t.phase)) (exec (.runCycle 7 1) { start with cycleBusy := true, phase := .wait .two }) =
      some (encode (.runCycle 7 1), .wait .three) := by decide +kernel

/-- R308 with a negative counter; R374. -/
theorem test_verifyResponses :
    see (fun t => (seen 0 t, t.faExp, t.anyTimeout)) (exec .verifyResponses { start with faExp := [-1, 0] }) =
        some ([.warning (some .responseTimeout) 101], [0, 0], true) ∧
      refusalOf (exec (.runCycle 7 1) { start with configured := false }) = some .notConfigured := by decide +kernel

/-- R330: the record is stamped with t_cycle. R377: a held list. -/
theorem test_raise_and_lock :
    see (fun t => t.warnRec) (exec (.raise .invalidLength 5) { start with tCycle := 9 }) =
        some ⟨9, 5, some .invalidLength⟩ ∧
      refusalOf (exec (.clearBusList 7) { start with cycleBusy := true, curOp := 7 }) = some (.busListLocked 7) ∧
      see (fun t => t.busLists) (exec (.clearBusList 7) (bus listFD false false [] [])) = some [] := by decide


/-! ### Witnesses: the hypotheses of each obligation can hold, at the boundaries of each clause -/

/-- `start` with the well-formed bus list of P1. -/
def listed : State := { start with busLists := [(7, listFD)] }

theorem inv_start : Inv start :=
  ⟨⟨by decide, by decide, by decide⟩, by decide, ⟨by decide, fun p hp => (by cases hp)⟩, fun p hp => (by cases hp),
    by decide, by decide, by decide, by decide⟩

theorem inv_listed : Inv listed :=
  ⟨⟨by decide, by decide, by decide⟩, by decide,
    ⟨by decide, fun p hp => by rw [List.mem_singleton.1 hp]; exact List.cons_ne_nil _ _⟩,
    fun p hp it hit => by
      rw [List.mem_singleton.1 hp] at hit
      rcases List.mem_cons.1 hit with rfl | hit
      · exact ⟨fun _ => ⟨by decide, by decide⟩, ⟨_, rfl⟩, fun _ => rfl, fun h => (by cases h)⟩
      · rw [List.mem_singleton.1 hit]
        exact ⟨fun _ => ⟨by decide, by decide⟩, ⟨_, rfl⟩, fun _ => rfl, fun h => (by cases h)⟩,
    by decide, by decide, by decide, by decide⟩

/-- `listed` with a pending cycle request. -/
def asked : State := { listed with port := encode (.runCycle 7 1) }

theorem inv_asked : Inv asked :=
  ⟨⟨inv_listed.buffer.words, inv_listed.buffer.cursor, inv_listed.buffer.room⟩, inv_listed.memory,
    inv_listed.busLists, inv_listed.items, inv_listed.map, inv_listed.counters, inv_listed.flags, inv_listed.lock⟩

/-- For StepKeepsInvariant: a state with a queued bus list and a pending cycle request, which takes a step. -/
theorem witness_StepKeepsInvariant : Inv asked ∧ see (fun t => t.tCycle) (step asked) = some 1 :=
  ⟨inv_asked, by decide +kernel⟩

/-- Words stand at an index when each is read there. -/
theorem atIndex_of {s : State} {i : Nat} {ws : List Word}
    (h : ∀ j ∈ List.range ws.length, wordAt s (i + j) = ws[j]?) : AtIndex s i ws :=
  fun j hj => h j (List.mem_range.2 hj)

/-- For DecodeEncodeRoundTrip: a well-formed instruction of each family, and the words at the classes' borders. -/
theorem witness_DecodeEncodeRoundTrip :
    ([.txd 255, .rxd 0, .tsw 255, .eof, .classTs 0xBFFF#16, .classTs 0xB100#16, .classEofw 0xA001#16, .classData 0#16,
      .classData 0xFFFF#16, .cwDelay 40000, .rspFaForceDemand (frame fa1 17 9), .rspHaReset (frame ha0 1 0),
      .rspHmReportLVDT (frame hm0 84 8), .excFa145 (frame fa0 1 1), .reqForceDemandSingle 0 1 16 [1],
      .reqForceDemandDual 0 1 17 [], .reqForceDemandDual 0 1 46 [], .reqStepMotorBroadcast 0 5 [], .load [0#16],
      .writeI32 (-2147483648), .checkFrameCRC 0 4, .dispatch (frame ha0 1 0) 255, .raise .unknownProblem (-1),
      .loadConfiguration exampleMap, .checkFrameCRC 0 0, .addBroadcast 0 (-1) 248 0 []] : List Instr).all Instr.wf =
        true ∧
      decoded [0x1296#16] = some (.txd 0x4B) := by decide

/-- For StepRunsTheDecodedInstruction. -/
theorem witness_StepRunsTheDecodedInstruction :
    start.faulted = none ∧ start.refusalMark = none ∧ decoded (encode (.writeU8 5)) = some (.writeU8 5) := by
  decide +kernel

/-- For StepWithNoCallOrNoInstruction: each clause. -/
theorem witness_StepWithNoCallOrNoInstruction :
    { start with faulted := some .bufferOverrun }.faulted = some .bufferOverrun ∧
      { start with refusalMark := some .notConfigured }.refusalMark = some .notConfigured ∧
      (start.port = [] ∧ start.phase = .idle ∧ start.faulted = none ∧ start.refusalMark = none) ∧
      see (fun t => t.phase) (step { start with phase := .wait .five, cycleBusy := true }) = some .verify ∧
      decoded [0x0FFF#16] = none := by decide +kernel

/-- For ByteWritesStoreOneWord and WordWritesStoreOneWord: the last index, and one past it. -/
theorem witness_ByteWritesStoreOneWord :
    { start with idx := 63 }.idx < start.capacity ∧ start.capacity ≤ { start with idx := 64 }.idx := by decide

theorem witness_WordWritesStoreOneWord :
    { start with idx := 63 }.idx < start.capacity ∧ start.capacity ≤ { start with idx := 64 }.idx := by decide

/-- For WideWritesStoreTheirWords: room for exactly the words, room for one fewer, and both float orders. -/
theorem witness_WideWritesStoreTheirWords :
    ([2, 3, 4].all fun k => decide ({ start with idx := 64 - k }.idx + k ≤ start.capacity)) = true ∧
      ([2, 3, 4].all fun k => decide (start.capacity < { start with idx := 65 - k }.idx + k)) = true ∧
      start.params.floatOrder = .lsbFirst ∧ { params with floatOrder := .msbFirst }.floatOrder = .msbFirst := by
  decide

/-- For ByteReadsTakeOneWord: the last word, and the end. -/
theorem witness_ByteReadsTakeOneWord :
    AtCursor { rx [0x9002#16, 0x9096#16] with idx := 1 } [0x9096#16] ∧
      wordAt { rx [0x9002#16, 0x9096#16] with idx := 2 } 2 = none :=
  ⟨atIndex_of (by decide +kernel), by decide⟩

/-- For WideReadsTakeTheirBytes: exactly the words, one fewer, and both float orders. -/
theorem witness_WideReadsTakeTheirBytes :
    AtCursor (rx [0x9002#16, 0x9004#16]) [0x9002#16, 0x9004#16] ∧
      AtCursor (rx [0x9002#16, 0x9004#16, 0x9006#16]) [0x9002#16, 0x9004#16, 0x9006#16] ∧
      AtCursor { rx [0x9002#16, 0x9004#16, 0x9006#16, 0x9008#16] with
        params := { params with floatOrder := .msbFirst } } [0x9002#16, 0x9004#16, 0x9006#16, 0x9008#16] ∧
      (rx [0x9002#16]).len < (rx [0x9002#16]).idx + 2 ∧ start.params.floatOrder = .lsbFirst ∧
      { rx [0x9002#16, 0x9004#16, 0x9006#16] with idx := 1 }.len <
        { rx [0x9002#16, 0x9004#16, 0x9006#16] with idx := 1 }.idx + 3 ∧
      (rx [0x9002#16, 0x9004#16, 0x9006#16]).len < (rx [0x9002#16, 0x9004#16, 0x9006#16]).idx + 4 :=
  ⟨atIndex_of (by decide +kernel), atIndex_of (by decide +kernel), atIndex_of (by decide +kernel), by decide, by decide,
    by decide, by decide⟩

/-- For TypedReadsInvertTypedWrites: each write completes. -/
theorem witness_TypedReadsInvertTypedWrites :
    (([.writeU8 300, .writeI8 (-128), .writeU16 65536, .writeI16 (-32768), .writeI24 8388607, .writeU32 (-1),
      .writeI32 2147483648, .writeSGL 0x80000000#32] : List Instr).all fun i => (writes i).isSome) = true := by decide

/-- For InboundWordRowsComplete: a capacity of one word, and a word of each class at its border. -/
theorem witness_InboundWordRowsComplete :
    1 ≤ { start with capacity := 1 }.capacity ∧ (Instr.classTs 0xB100#16).wf = true ∧
      (Instr.classEofw 0xA001#16).wf = true ∧ (Instr.classData 0#16).wf = true := by decide

/-- For LoadSetsTheBuffer: exactly the capacity, and one more. -/
theorem witness_LoadSetsTheBuffer :
    (List.replicate 64 0#16).length ≤ start.capacity ∧ start.capacity < (List.replicate 65 0#16).length := by decide

/-- For FrameBoundariesFollowTheEndOfFrameTag: a word, none, and the cursor at the end. -/
theorem witness_FrameBoundariesFollowTheEndOfFrameTag :
    AtCursor (rx [0xA000#16]) [0xA000#16] ∧ wordAt start start.idx = none ∧
      { rx [0x9000#16] with idx := 1 }.idx ≤ (rx [0x9000#16]).len :=
  ⟨atIndex_of (by decide +kernel), by decide, by decide⟩

/-- For CrcOperationsArePure: a span up to the end, and one that ends past it. -/
theorem witness_CrcOperationsArePure :
    AtIndex (rx [0x9002#16, 0x9022#16]) 1 [0x9022#16] ∧ 1 + 1 ≤ (rx [0x9002#16, 0x9022#16]).len ∧
      (rx [0x9002#16, 0x9022#16]).len < 2 + 1 :=
  ⟨atIndex_of (by decide +kernel), by decide, by decide⟩

/-- For CrcDetectsEveryByteError: the last byte of V-CRC-7's frame, and its first. -/
theorem witness_CrcDetectsEveryByteError :
    (crc16 [1, 0x11] = (0x2C#8 ++ 0xC0#8 : Word) ∧ 3 < [1#8, 0x11#8].length + 2) ∧
      ([1#8, 0x11#8] ++ [0xC0#8, 0x2C#8])[3]? ≠ some 0x2D#8 ∧
      [1#8, 0x11#8] ++ [0xC0#8, 0x2D#8] = ([1#8, 0x11#8] ++ [0xC0#8, 0x2C#8]).set 3 0x2D#8 ∧
      ([1#8, 0x11#8] ++ [0xC0#8, 0x2C#8])[0]? ≠ some 2#8 ∧
      [2#8, 0x11#8] ++ [0xC0#8, 0x2C#8] = ([1#8, 0x11#8] ++ [0xC0#8, 0x2C#8]).set 0 2#8 := by decide +kernel

/-- Two written bytes, with the cursor behind them. -/
def written : State := { rx [0x1202#16, 0x1222#16] with idx := 2 }

/-- For WriteCrcAppendsTheCrc: exactly the room, one word too few, a span too long, and a control word in the span. -/
theorem witness_WriteCrcAppendsTheCrc :
    (2 ≤ written.idx ∧ AtIndex written 0 ([1#8, 0x11#8].map txdWord)) ∧
      2 + 2 ≤ { start with capacity := 4 }.capacity ∧ { start with capacity := 3 }.capacity < 2 + 2 ∧
      written.idx < 3 ∧
      (AtIndex (rx [0xA000#16, 0x1202#16]) 0 [0xA000#16, 0x1202#16] ∧ 0xA000#16 &&& 0xFE01#16 ≠ 0x1200#16) :=
  ⟨⟨by decide +kernel, atIndex_of (by decide +kernel)⟩, by decide +kernel, by decide +kernel, by decide +kernel,
    ⟨atIndex_of (by decide +kernel), by decide +kernel⟩⟩

/-- For FrameCrcCheck: four words, two words, no word, and one word too many. -/
theorem witness_FrameCrcCheck :
    (AtIndex (rx [0x9002#16, 0x9084#16, 0x9100#16, 0x9022#16]) 0 [0x9002#16, 0x9084#16, 0x9100#16, 0x9022#16] ∧
      [0x9002#16, 0x9084#16, 0x9100#16, 0x9022#16].map byteOf = [1#8, 0x42#8] ++ [0x80#8, 0x11#8]) ∧
      (AtIndex (rx [0x9002#16, 0x9084#16]) 0 [0x9002#16, 0x9084#16] ∧
        [0x9002#16, 0x9084#16].map byteOf = [] ++ [1#8, 0x42#8]) ∧
      0 < 2 ∧ 1 < 2 ∧ 2 ≤ 2 ∧ (rx [0x9002#16]).len < 0 + 2 :=
  ⟨⟨atIndex_of (by decide +kernel), by decide⟩, ⟨atIndex_of (by decide +kernel), by decide⟩, by decide, by decide,
    by decide, by decide⟩

/-- For EncodeRequestBuildsTheFrame: the longest payload that fits, and one byte more. -/
theorem witness_EncodeRequestBuildsTheFrame :
    (List.replicate 60 0#8).length + 4 ≤ start.capacity ∧ start.capacity < (List.replicate 61 0#8).length + 4 := by
  decide

/-- For UnicastRequestsQueueOneFrame. -/
theorem witness_UnicastRequestsQueueOneFrame :
    lookup 1 17 start = .channel fa1 ∧ busListHeld 7 start = false ∧
      (List.replicate 60 0#8).length + 4 ≤ start.capacity := by decide

/-- For BroadcastsQueueOneFrameAndCount: a list that another cycle does not hold. -/
theorem witness_BroadcastsQueueOneFrameAndCount :
    busListHeld 7 { start with cycleBusy := true, curOp := 8 } = false ∧
      (embedCounter start.params.bcastField (List.replicate 60 0#8) 15).length + 4 ≤ start.capacity := by decide

/-- For UnmappedRequestsFault: an unmapped address, a subnet outside 1 to 5, and a non-broadcast address. -/
theorem witness_UnmappedRequestsFault :
    busListHeld 7 start = false ∧ (∀ c, lookup 1 5 start ≠ .channel c) ∧ (∀ c, lookup 6 1 start ≠ .channel c) ∧
      (247#8 ≠ 248#8 ∧ 247#8 ≠ 249#8) :=
  ⟨by decide, fun c h => LookupResult.noConfusion ((show lookup 1 5 start = LookupResult.invalid by decide) ▸ h),
    fun c h => LookupResult.noConfusion ((show lookup 6 1 start = LookupResult.unknownSubnet by decide) ▸ h), by decide, by decide⟩

/-- For HeldBusListIsRefused: held, held for another list, and free. -/
theorem witness_HeldBusListIsRefused :
    ({ start with cycleBusy := true, curOp := 7 }.cycleBusy = true ∧ { start with curOp := 7 }.curOp = 7) ∧
      ¬({ start with cycleBusy := true, curOp := 8 }.cycleBusy = true ∧ { start with curOp := 8 }.curOp = 7) ∧
      ¬(start.cycleBusy = true ∧ start.curOp = 0) := by decide

/-- For ActuatorIdOfFindsTheChannel: an entry that is the only one, and an index with none. -/
theorem witness_ActuatorIdOfFindsTheChannel :
    (∃ p ∈ start.ilcMap, p.2.deviceType = .fa ∧ p.2.dataIndex = 1 ∧
      ∀ q ∈ start.ilcMap, q.2.deviceType = .fa → q.2.dataIndex = 1 → q.2.actuatorId = p.2.actuatorId) ∧
      ∀ p ∈ start.ilcMap, ¬(p.2.deviceType = .fa ∧ p.2.dataIndex = 2) := by decide

/-- Entries at the borders of R194. -/
def borderMap : List MapEntry :=
  [⟨1, 16, fa0⟩, ⟨5, 46, fa1⟩, ⟨5, 6, ha0⟩, ⟨5, 89, hm0⟩]

theorem mapOk_borderMap : MapOk params borderMap := by
  refine ⟨fun e he => ?_, by unfold borderMap; decide, by unfold borderMap; decide⟩
  simp only [borderMap, List.mem_cons, List.not_mem_nil, or_false] at he
  rcases he with rfl | rfl | rfl | rfl <;>
    exact ⟨by decide, by decide, by decide, by decide, by decide, by decide, by decide⟩

/-- For LoadConfigurationBuildsTheMap: an admitted map, one with a force actuator at address 47, and one with an
orientation outside the four values. -/
theorem witness_LoadConfigurationBuildsTheMap :
    (start.phase = .idle ∧ start.cycleBusy = false) ∧ MapOk start.params borderMap ∧
      ¬MapOk start.params [⟨1, 47, fa1⟩] ∧ ¬MapOk start.params [⟨1, 1, { fa0 with orientation := .other 0 }⟩] :=
  ⟨by decide, mapOk_borderMap, fun h =>
    absurd ((h.entries ⟨1, 47, fa1⟩ List.mem_cons_self).fa rfl).2.1 (by decide), fun h =>
    absurd (h.entries ⟨1, 1, { fa0 with orientation := .other 0 }⟩ List.mem_cons_self).orientation (by decide)⟩

/-- The parameters with every overridable response length 2. -/
def shortParams : Params :=
  { params with
    len17 := 2, len18 := 2, len65 := 2, len73 := 2, len80 := 2, len81 := 2, len107 := 2, len120 := 2, len121 := 2 }

/-- For RawResponsesDeliverTheirBytes: every clause at once with k = 2, and with k = 0. -/
theorem witness_RawResponsesDeliverTheirBytes :
    (AtCursor { rx [0x9002#16, 0x9004#16] with params := shortParams } [0x9002#16, 0x9004#16] ∧
      [0x9002#16, 0x9004#16].length = (frame fa0 1 2).k ∧
      ∀ k ∈ [shortParams.len17, shortParams.len73, shortParams.len80, shortParams.len81, shortParams.len107,
        shortParams.len120], (frame fa0 1 2).k = k) ∧
      (AtCursor start [] ∧ (frame fa0 1 0).k = start.params.len107) :=
  ⟨⟨atIndex_of (by decide +kernel), by decide, by decide⟩, atIndex_of (by decide +kernel), by decide⟩

/-- For IntegerResponsesDeliverTheirFields: six and five bytes, two by override, and the lengths. -/
theorem witness_IntegerResponsesDeliverTheirFields :
    (AtCursor (rx (List.replicate 6 0x9002#16)) (List.replicate 6 0x9002#16) ∧
      ((List.replicate 6 0x9002#16).map byteOf).length = 6 ∧ (frame fa0 1 6).k = start.params.len18) ∧
      (AtCursor (rx (List.replicate 5 0x9002#16)) (List.replicate 5 0x9002#16) ∧
        (frame fa0 1 5).k = { params with len18 := 5 }.len18) ∧
      (AtCursor (rx [0x9002#16, 0x9004#16]) [0x9002#16, 0x9004#16] ∧ (frame fa0 1 2).k = shortParams.len18 ∧
        (frame fa0 1 2).k = shortParams.len65 ∧ (frame fa0 1 2).k = shortParams.len121) :=
  ⟨⟨atIndex_of (by decide +kernel), by decide, by decide⟩, ⟨atIndex_of (by decide +kernel), by decide⟩,
    atIndex_of (by decide +kernel), by decide, by decide, by decide⟩

/-- For FloatResponsesDeliverTheirFloats: 8, 96 and 16 words, and other lengths. -/
theorem witness_FloatResponsesDeliverTheirFloats :
    (AtCursor (rx (List.replicate 8 0x9002#16)) (List.replicate 8 0x9002#16) ∧ (frame fa0 1 8).k = 8 ∧
      floatsOf .lsbFirst ((List.replicate 8 0x9002#16).map byteOf) 2 = [0x01010101#32, 0x01010101#32]) ∧
      AtCursor (rx (List.replicate 96 0x9002#16)) (List.replicate 96 0x9002#16) ∧
      AtCursor (rx (List.replicate 16 0x9002#16)) (List.replicate 16 0x9002#16) ∧
      (frame fa0 1 7).k ≠ 8 ∧ (frame fa0 1 95).k ≠ 96 ∧ (frame fa0 1 17).k ≠ 16 :=
  ⟨⟨atIndex_of (by decide +kernel), by decide, by decide⟩, atIndex_of (by decide +kernel),
    atIndex_of (by decide +kernel), by decide, by decide, by decide⟩

/-- For HmPressureIsDeliveredAndChecked. -/
theorem witness_HmPressureIsDeliveredAndChecked :
    AtCursor (rx (List.replicate 16 0x9002#16)) (List.replicate 16 0x9002#16) ∧
      (List.replicate 16 0x9002#16).length = 16 ∧ (frame hm0 84 16).k = 16 :=
  ⟨atIndex_of (by decide +kernel), by decide, by decide⟩

/-- For ElectromechanicalResponsesInvertAndCheck: V-DEC-6's payload. -/
theorem witness_ElectromechanicalResponsesInvertAndCheck :
    AtCursor { rx dec6 with idx := 2 } [0x9000#16, 0x9000#16, 0x9000#16, 0x9006#16, 0x91D0#16, 0x9000#16, 0x9000#16,
      0x9090#16, 0x9082#16] ∧ (frame ha0 1 9).k = 9 :=
  ⟨atIndex_of (by decide +kernel), by decide⟩

/-- For ForceResponsesConvertAndCheck: address 16 with 5 words, and address 17 with 9. -/
theorem witness_ForceResponsesConvertAndCheck :
    (AtCursor (rx (List.replicate 5 0x9002#16)) [0x9002#16, 0x9002#16, 0x9002#16, 0x9002#16, 0x9002#16] ∧
      (frame fa0 16 5).addr.toNat ≤ 16 ∧ (frame fa0 16 5).k = 5) ∧
      (AtCursor (rx (List.replicate 9 0x9002#16)) [0x9002#16, 0x9002#16, 0x9002#16, 0x9002#16, 0x9002#16, 0x9002#16,
        0x9002#16, 0x9002#16, 0x9002#16] ∧ 17 ≤ (frame fa1 17 9).addr.toNat ∧ (frame fa1 17 9).k = 9) :=
  ⟨⟨atIndex_of (by decide +kernel), by decide, by decide⟩, atIndex_of (by decide +kernel), by decide, by decide⟩

/-- For ForceChecksRenewTheFlagsAndReport: the last index of the arrays, the first behind them, and one before them. -/
theorem witness_ForceChecksRenewTheFlagsAndReport :
    (fa1.dataIndex = (1 : Nat) ∧ 1 < start.limitFlag.length ∧ 1 < start.feFlag.length) ∧
      (start.limitFlag.length : Int) ≤ { fa1 with dataIndex := 2 }.dataIndex ∧
      (start.feFlag.length : Int) ≤ { fa1 with dataIndex := 2 }.dataIndex ∧
      { fa1 with dataIndex := -1 }.dataIndex < 0 := by decide

/-- For ComparisonsFollowTheRealValues: a NaN at its border; the least and greatest normal patterns, zero and the least
and greatest subnormal ones, of both signs; and both infinities. -/
theorem witness_ComparisonsFollowTheRealValues :
    (((0x7F800001#32).extractLsb' 23 8).toNat = 255 ∧ ((0x7F800001#32).extractLsb' 0 23).toNat ≠ 0) ∧
      ([0x00800000#32, 0x7F7FFFFF#32, 0x80800000#32, 0xFF7FFFFF#32, 0#32, 0x80000000#32, 1#32, 0x80000001#32,
        0x007FFFFF#32, 0x807FFFFF#32].all fun p => decide ((p.extractLsb' 23 8).toNat < 255)) = true ∧
      ([0x7F800000#32, 0xFF800000#32].all fun p => decide ((p.extractLsb' 23 8).toNat = 255) &&
        decide ((p.extractLsb' 0 23).toNat = 0)) = true := by decide

/-- For ExceptionResponsesRaiseOneWarning: one byte, none, and two. -/
theorem witness_ExceptionResponsesRaiseOneWarning :
    ((frame fa0 1 1).k = 1 ∧ AtCursor (rx [0x9006#16]) [0x9006#16]) ∧ (frame fa0 1 0).k ≠ 1 ∧ (frame fa0 1 2).k ≠ 1 :=
  ⟨⟨by decide, atIndex_of (by decide +kernel)⟩, by decide, by decide⟩

/-- For DispatchSelectsTheTableRow: a frame of each device type. -/
theorem witness_DispatchSelectsTheTableRow :
    (frame fa0 1 5).ch.deviceType = .fa ∧ (frame ha0 1 9).ch.deviceType = .ha ∧
      (frame hm0 84 8).ch.deviceType = .hm := by decide

/-- A loaded buffer is well formed. -/
theorem bufferOk_rx (ws : List Word) (h : ws.length ≤ 64) : BufferOk (rx ws) := by
  refine ⟨?_, Nat.zero_le _, h⟩
  have keys : ∀ (l : List Word) (b : Nat), (Memory.ofWords b l).map (fun p => p.1) = List.range' b l.length := by
    intro l
    induction l with
    | nil => exact fun b => rfl
    | cons w l ih => intro b; simp [Memory.ofWords, ih, List.range'_succ]
  exact (keys ws 0).trans List.range_eq_range'.symm

/-- For DispatchCompletes: a payload up to the end of the buffer, a code of no set, and a wrong length. -/
theorem witness_DispatchCompletes :
    (BufferOk (rx [0x9006#16]) ∧ (rx [0x9006#16]).idx + (frame fa0 1 1).k ≤ (rx [0x9006#16]).len) ∧
      ((66#8).toNat ∉ successSet fa0.deviceType ∧ (66#8).toNat ∉ exceptionSet fa0.deviceType) ∧
      ((75#8).toNat ∈ successSet fa1.deviceType ∧
        (frame fa1 17 5).k ≠ respLen params (75#8).toNat (frame fa1 17 5).addr) :=
  ⟨⟨bufferOk_rx _ (by decide), by decide⟩, by decide, by decide⟩

/-- For DecodeFrameEndsAtTheNextFrame: two frames, and an empty buffer. -/
theorem witness_DecodeFrameEndsAtTheNextFrame :
    (BufferOk (rx (dec2 ++ dec1)) ∧ (rx (dec2 ++ dec1)).idx < (rx (dec2 ++ dec1)).len) ∧ BufferOk (rx []) :=
  ⟨⟨bufferOk_rx _ (by decide), by decide⟩, bufferOk_rx _ (by decide)⟩

/-- For FramesWithoutATailRaiseInvalidLength: the end of the buffer, an end-of-frame word, and n = 3. -/
theorem witness_FramesWithoutATailRaiseInvalidLength :
    ((∀ j, j < 2 → classAt (rx [0x9002#16, 0x9004#16]) (0 + j) .data = true) ∧
      0 + 2 = (rx [0x9002#16, 0x9004#16]).len) ∧
      classAt (rx [0xA000#16]) (0 + 0) .eofw = true ∧
      ((∀ j, j < 3 → classAt (rx ([0x9002#16, 0x9084#16, 0x9100#16] ++ tail)) (0 + j) .data = true) ∧
        3 < 4 ∧ classAt (rx ([0x9002#16, 0x9084#16, 0x9100#16] ++ tail)) (0 + 3) .ts = true) := by decide

/-- The four words of V-DEC-4's frame, and the same with the last byte changed. -/
def goodWords : List Word := [0x9002#16, 0x9084#16, 0x9100#16, 0x9022#16]
def badWords : List Word := [0x9002#16, 0x9084#16, 0x9100#16, 0x9024#16]

theorem goodWords_bytes : goodWords.map byteOf = [1#8, 0x42#8, 0x80#8, 0x11#8] := by decide
theorem badWords_bytes : badWords.map byteOf = [1#8, 0x42#8, 0x80#8, 0x12#8] := by decide
theorem goodWords_data : ∀ x ∈ goodWords, classify x = .data := by simp [goodWords, classify, tag]
theorem badWords_data : ∀ x ∈ badWords, classify x = .data := by simp [badWords, classify, tag]
theorem tailWord_ts : classify 0xB034#16 = .ts := by decide

theorem goodWords_here :
    ∀ j ∈ List.range (goodWords ++ [0xB034#16]).length,
      wordAt (rx (goodWords ++ tail)) (0 + j) = (goodWords ++ [0xB034#16])[j]? := by decide +kernel

theorem badWords_here :
    ∀ j ∈ List.range (badWords ++ [0xB034#16]).length,
      wordAt (rx (badWords ++ tail)) (0 + j) = (badWords ++ [0xB034#16])[j]? := by decide +kernel

/-- V-DEC-4's frame stands at the cursor: no payload bytes and a good CRC. -/
theorem frameHere_good : FrameHere (rx (goodWords ++ tail)) 1#8 0x42#8 [] 0x80#8 0x11#8 :=
  Exists.intro goodWords (Exists.intro 0xB034#16
    (And.intro goodWords_bytes (And.intro goodWords_data (And.intro tailWord_ts (atIndex_of goodWords_here)))))

/-- The same with its last byte changed. -/
theorem frameHere_bad : FrameHere (rx (badWords ++ tail)) 1#8 0x42#8 [] 0x80#8 0x12#8 :=
  Exists.intro badWords (Exists.intro 0xB034#16
    (And.intro badWords_bytes (And.intro badWords_data (And.intro tailWord_ts (atIndex_of badWords_here)))))

/-- For BadCrcDiscardsTheFrame. -/
theorem witness_BadCrcDiscardsTheFrame :
    FrameHere (rx (badWords ++ tail)) 1#8 0x42#8 [] 0x80#8 0x12#8 ∧
      crc16 [1, 0x42] ≠ (0x12#8 ++ 0x80#8 : Word) ∧ start.params.decrOnBadCrc = false :=
  ⟨frameHere_bad, by decide +kernel, by decide⟩

/-- For BadCrcMayDecrementItsAddress: a mapped address, and an unmapped one by the subnet 2. -/
theorem witness_BadCrcMayDecrementItsAddress :
    FrameHere (rx (badWords ++ tail)) 1#8 0x42#8 [] 0x80#8 0x12#8 ∧
      crc16 [1, 0x42] ≠ (0x12#8 ++ 0x80#8 : Word) ∧ { params with decrOnBadCrc := true }.decrOnBadCrc = true ∧
      lookup 1 1 start = .channel fa0 ∧ lookup 2 1 start = .invalid :=
  ⟨frameHere_bad, by decide +kernel, by decide, by decide, by decide⟩

/-- For UnknownAddressIsReported: the mapped subnets' frame on subnet 2. -/
theorem witness_UnknownAddressIsReported :
    FrameHere (rx (goodWords ++ tail)) 1#8 0x42#8 [] 0x80#8 0x11#8 ∧
      crc16 [1, 0x42] = (0x11#8 ++ 0x80#8 : Word) ∧ lookup 2 1 start = .invalid :=
  ⟨frameHere_good, by decide +kernel, by decide⟩

/-- For UnknownSubnetIsReported: subnets 0 and 6. -/
theorem witness_UnknownSubnetIsReported :
    FrameHere (rx (goodWords ++ tail)) 1#8 0x42#8 [] 0x80#8 0x11#8 ∧
      crc16 [1, 0x42] = (0x11#8 ++ 0x80#8 : Word) ∧ ((0 : Int) < 1 ∨ (5 : Int) < 0) ∧ ((6 : Int) < 1 ∨ (5 : Int) < 6) :=
  ⟨frameHere_good, by decide +kernel, by decide, by decide⟩

/-- For RoutedFrameDecrementsThenDispatches: a mapped address, and a dispatch that answers. -/
theorem witness_RoutedFrameDecrementsThenDispatches :
    FrameHere (rx (goodWords ++ tail)) 1#8 0x42#8 [] 0x80#8 0x11#8 ∧
      crc16 [1, 0x42] = (0x11#8 ++ 0x80#8 : Word) ∧ lookup 1 1 start = .channel fa0 ∧
      see (seen 0) (exec (.dispatch (frame fa0 1 0) 0x42) start) = some [.warning (some .unknownFunction) 101] :=
  ⟨frameHere_good, by decide +kernel, by decide, by decide⟩

/-- For DecodeBufferUsesTheWholeBuffer: a full buffer, one word more, and an empty one. -/
theorem witness_DecodeBufferUsesTheWholeBuffer :
    (List.replicate 64 0x9000#16).length ≤ start.capacity ∧ start.capacity < (List.replicate 65 0x9000#16).length ∧
      ([] : List Word).length ≤ start.capacity := by decide

/-- For VerificationReportsAndClears: a state with a counter that is not 0, and one with none. -/
theorem witness_VerificationReportsAndClears :
    (∃ c ∈ { start with faExp := [0, -1] }.exp .fa, c ≠ 0) ∧
      (timeouts .fa { start with faExp := [0, -1] }).getLast? =
        some (.warning (warning start .responseTimeout 117)) ∧
      ∀ dt, ∀ c ∈ start.exp dt, c = 0 := by
  refine ⟨by decide, by decide +kernel, fun dt => ?_⟩
  cases dt <;> decide

/-- For RunCycleCompletes: no subnet signals, and two do. -/
theorem witness_RunCycleCompletes :
    listed.configured = true ∧ listed.cycleBusy = false ∧ signalCount listed.env.signal = 0 ∧
      signalCount (bus listFD true true [] []).env.signal = 2 := by decide

/-- For SilentCycleTimesOutEveryRequest: both channels are asked once. -/
theorem witness_SilentCycleTimesOutEveryRequest :
    (listed.configured = true ∧ listed.cycleBusy = false) ∧ (∀ dt, ∀ c ∈ listed.exp dt, c = 0) ∧
      (∀ n, listed.env.signal.get n = false) ∧ requestsTo (busList 7 listed) .fa 0 = 1 ∧
      requestsTo (busList 7 listed) .fa 1 = 1 := by
  refine ⟨by decide, fun dt => ?_, fun n => ?_, by decide, by decide⟩
  · cases dt <;> decide
  · cases n <;> decide

/-- For CycleRequestsAreRefusedOrHeld: unconfigured, and busy with a configuration in a phase that is not idle. -/
theorem witness_CycleRequestsAreRefusedOrHeld :
    { start with configured := false }.configured = false ∧
      ({ start with cycleBusy := true }.cycleBusy = true ∧ start.configured = true) ∧
      { start with phase := .wait .two }.phase ≠ .idle := by decide

/-- `listed` with two pending cycle requests. -/
def queue : State := { listed with port := encode (.runCycle 7 1) ++ encode (.runCycle 7 2) }

/-- For CyclesNeverStopTheBlock. -/
theorem witness_CyclesNeverStopTheBlock : ServesCycles queue :=
  ⟨by decide, by decide, by decide, by decide, by decide, [(7, 1), (7, 2)], by decide +kernel⟩

/-- For NoStepChangesAParameter: a step that loads a configuration. -/
theorem witness_NoStepChangesAParameter :
    see (fun t => t.configured)
      (step { start with configured := false, port := encode (.loadConfiguration exampleMap) }) = some true := by
  decide +kernel

end Sys2Proof.Tests
end

/-! What one instruction can do to the state, said once: the shared operations of the block are the cases of `Effect`,
`exec_effect` places every instruction in one of them, and `step_cases` says what a step runs. -/
namespace Sys2Proof.Machine

open Sys2Proof.Safety

/-! ### Answers taken apart -/

theorem ok_of_outcome {e : Except Fault State} {t : State} (h : outcome e = .next t) : e = .ok t := by
  cases e with
  | error f => cases h
  | ok u => cases h; rfl

theorem ok_of_answer {α : Type} {mk : α → Ret} {e : Except Fault (α × State)} {t : State}
    (h : answer mk e = .next t) : ∃ v u, e = .ok (v, u) ∧ t = { u with ret := mk v } := by
  cases e with
  | error f => cases h
  | ok x => cases h; exact ⟨x.1, x.2, rfl, rfl⟩

theorem ok_of_changingBusList {op : Op} {s t : State} {r : Except Fault State}
    (h : changingBusList op s r = .next t) : r = .ok t := by
  unfold changingBusList at h
  split at h
  · cases h
  · exact ok_of_outcome h

theorem ok_of_receiveWord {w : Word} {take : State → Host.Outcome State Fault Refusal} {s t : State}
    (h : receiveWord w take s = .next t) : ∃ u, loadBuffer [w] s = .ok u ∧ take u = .next t := by
  unfold receiveWord at h
  split at h
  · exact ⟨_, ‹_›, h⟩
  · cases h

/-! ### Moves of the cursor -/

theorem movedBy_refl (s : State) : MovedBy s s := ⟨0, rfl, id⟩

theorem movedBy_skip (s : State) : MovedBy s (skipToNextFrame s) := by
  by_cases hi : s.idx ≤ s.len
  · obtain ⟨hge, hle, -⟩ := nextFrame_bounds s hi
    refine ⟨nextFrame s - s.idx, ?_, fun _ => by omega⟩
    rw [Nat.add_sub_cancel' hge]; rfl
  · have hstay : nextFrame s = s.idx := by
      have hnone : s.len - s.idx = 0 := by omega
      simp only [nextFrame, hnone, findEof, if_neg (show ¬ s.idx < s.len by omega)]
    exact ⟨0, by rw [skipToNextFrame, hstay]; rfl, fun h => absurd h hi⟩

/-- The timestamp words a read passes lie below `len` (R148). -/
theorem movedBy_readTimestamp (s : State) : MovedBy s (readTimestamp s).2 := by
  refine ⟨(tsBytesAt s tsWords s.idx).length, rfl, fun hi => ?_⟩
  by_contra hc
  obtain ⟨w, hw, -⟩ := (tsBytesAt_spec s tsWords s.idx).1 ((tsBytesAt s tsWords s.idx).length - 1) (by omega)
  rw [wordAt, if_neg (by omega)] at hw
  cases hw

/-- `t` is `s` with the cursor moved on, inside the buffer if it was inside, and a value returned (log 5). -/
def AnsweredBy (s t : State) : Prop := ∃ u r, MovedBy s u ∧ t = { u with ret := r }

theorem answeredBy_ret {s t : State} {r : Ret}
    (h : (Host.Outcome.next { s with ret := r } : Host.Outcome State Fault Refusal) = .next t) : AnsweredBy s t := by
  cases h
  exact ⟨s, r, movedBy_refl s, rfl⟩

theorem answeredBy_answer {α : Type} {mk : α → Ret} {e : Except Fault (α × State)} {s t : State}
    (hm : ∀ {v u}, e = .ok (v, u) → MovedBy s u) (h : answer mk e = .next t) : AnsweredBy s t := by
  obtain ⟨v, u, hu, rfl⟩ := ok_of_answer h
  exact ⟨u, mk v, hm hu, rfl⟩

theorem answeredBy_calculateCRC {start length : Nat} {s t : State}
    (h : execCalculateCRC start length s = .next t) : AnsweredBy s t := by
  refine answeredBy_answer (fun {v u} hu => ?_) h
  cases hc : calculateCRC start length s with
  | error f => rw [hc] at hu; cases hu
  | ok c => rw [hc] at hu; cases hu; exact movedBy_refl s

theorem answeredBy_classify {s t : State} (h : classifyAtCursor s = .next t) : AnsweredBy s t := by
  unfold classifyAtCursor at h
  split at h
  · exact answeredBy_ret h
  · cases h

theorem answeredBy_readTimestamp {s t : State} (h : execReadTimestamp s = .next t) : AnsweredBy s t :=
  answeredBy_answer (fun hu => by cases hu; exact movedBy_readTimestamp s) h

theorem inv_ret {s : State} (r : Ret) (h : Inv s) : Inv { s with ret := r } :=
  inv_registers h h.buffer.cursor rfl

theorem fixed_ret {s u : State} (r : Ret) (h : Fixed s u) : Fixed s { u with ret := r } := h

theorem inv_answered {s t : State} (h : Inv s) (ha : AnsweredBy s t) : Inv t := by
  obtain ⟨u, r, hm, rfl⟩ := ha
  exact inv_ret r (inv_moved h hm)

theorem fixed_answered {s t : State} (ha : AnsweredBy s t) : Fixed s t := by
  obtain ⟨u, r, hm, rfl⟩ := ha
  exact fixed_ret r (fixed_moved hm)

/-! ### The effects of the instructions -/

/-- The ways an instruction can take `s` to `t`, one for each shared operation of the block. -/
inductive Effect (s t : State) : Prop where
  /-- words written at the cursor (R61, R65, R102, R123 to R130, R139 to R144) -/
  | wrote (ws : List Word) (h : putWords ws s = .ok t)
  /-- the buffer emptied (R120) -/
  | cleared (h : t = resetBuffer s)
  /-- the buffer loaded (R121) -/
  | loaded (ws : List Word) (h : loadBuffer ws s = .ok t)
  /-- a read, a scan or a computed value: the cursor moves on and a value is returned (R131 to R138, R145 to R149) -/
  | answered (h : AnsweredBy s t)
  /-- one inbound word loaded and then taken (R62 to R64, R66) -/
  | received (w : Word) (u : State) (hu : loadBuffer [w] s = .ok u) (h : AnsweredBy u t)
  /-- the CRC registers written (R103) -/
  | crcChecked (fs n : Nat) (ok : Bool) (u : State) (hu : checkFrameCRC fs n s = .ok (ok, u))
      (h : t = { u with ret := .bool ok })
  /-- a request frame built (R160) -/
  | built (a f : Byte) (p : List Byte) (ws : List Word) (u : State) (hu : buildRequest a f p s = .ok (ws, u))
      (h : t = { u with ret := .words ws })
  /-- a unicast item queued (R161) -/
  | unicast (e : Bool) (op : Op) (sub : Int) (a f : Byte) (p : List Byte) (h : appendUnicast e op sub a f p s = .ok t)
  /-- a broadcast item queued (R162) -/
  | broadcast (op : Op) (sub : Int) (a f : Byte) (p : List Byte) (h : appendBroadcast op sub a f p s = .ok t)
  /-- a bus list emptied (R300) -/
  | listCleared (op : Op) (h : t = setBusList op [] s)
  /-- a success response handled (R222) -/
  | responded (fn : Nat) (r : Reader) (f : Routed) (hr : ∀ {u v}, r f s = .ok (v, u) → ReadBy s u)
      (h : respond fn r f s = .ok t)
  /-- an exception response handled (R223) -/
  | excepted (f : Routed) (h : respondException f s = .ok t)
  /-- a frame dispatched (R221) -/
  | dispatched (f : Routed) (fn : Byte) (h : dispatchFrame f fn s = .ok t)
  /-- a warning raised (R330) -/
  | raised (k : WarnKind) (aid : Int) (h : t = raise k aid s)
  /-- one frame decoded (R211) -/
  | frameDecoded (sub : Int) (h : decodeOneFrame sub s = .ok t)
  /-- one buffer decoded (R210) -/
  | bufferDecoded (sub : Int) (ws : List Word) (h : decodeWholeBuffer sub ws s = .ok t)
  /-- the responses verified (R308) -/
  | verified (h : t = verifyAll s)
  /-- a whole cycle run (R301) -/
  | cycled (op : Op) (tm : BitVec 64) (h : wholeCycle op tm s = .ok t)
  /-- a call held while the running cycle goes on by one phase (R302, R372) -/
  | held (i : Instr) (h : hold i s = .next t)
  /-- a configuration loaded (R372) -/
  | configured (es : List MapEntry) (h : loadConfig es s = .ok t)

theorem effect_putWords {ws : List Word} {s t : State} (h : outcome (putWords ws s) = .next t) : Effect s t :=
  .wrote ws (ok_of_outcome h)

theorem effect_putWord {w : Word} {s t : State} (h : outcome (putWord w s) = .next t) : Effect s t :=
  .wrote [w] (by rw [putWords, ok_of_outcome h]; rfl)

/-- Appending a CRC is a write of its two words (R102). -/
theorem effect_writeCRC {n : Nat} {s t : State} (h : outcome (writeCRC n s) = .next t) : Effect s t := by
  have hw := ok_of_outcome h
  unfold writeCRC at hw
  split at hw
  · cases hw
  · split at hw
    · cases hw
    · split at hw
      · exact .wrote _ hw
      · cases hw

theorem effect_answer {α : Type} {mk : α → Ret} {e : Except Fault (α × State)} {s t : State}
    (hm : ∀ {v u}, e = .ok (v, u) → MovedBy s u) (h : answer mk e = .next t) : Effect s t :=
  .answered (answeredBy_answer hm h)

theorem effect_ret {s t : State} {r : Ret}
    (h : (Host.Outcome.next { s with ret := r } : Host.Outcome State Fault Refusal) = .next t) : Effect s t :=
  .answered (answeredBy_ret h)

theorem effect_receiveWord {w : Word} {take : State → Host.Outcome State Fault Refusal} {s t : State}
    (ht : ∀ {u}, take u = .next t → AnsweredBy u t) (h : receiveWord w take s = .next t) : Effect s t := by
  obtain ⟨u, hu, hut⟩ := ok_of_receiveWord h
  exact .received w u hu (ht hut)

theorem effect_unicast {e : Bool} {op : Op} {sub : Int} {a f : Byte} {p : List Byte} {s t : State}
    (h : unicast e op sub a f p s = .next t) : Effect s t :=
  .unicast e op sub a f p (ok_of_changingBusList h)

theorem effect_broadcast {op : Op} {sub : Int} {a f : Byte} {p : List Byte} {s t : State}
    (h : broadcast op sub a f p s = .next t) : Effect s t :=
  .broadcast op sub a f p (ok_of_changingBusList h)

theorem effect_respond {fn : Nat} {r : Reader} {f : Routed} {s t : State}
    (hr : ∀ {u v}, r f s = .ok (v, u) → ReadBy s u) (h : outcome (respond fn r f s) = .next t) : Effect s t :=
  .responded fn r f hr (ok_of_outcome h)

theorem effect_respondException {f : Routed} {s t : State} (h : outcome (respondException f s) = .next t) :
    Effect s t :=
  .excepted f (ok_of_outcome h)

theorem effect_runCycle {op : Op} {tm : BitVec 64} {s t : State} (h : execRunCycle op tm s = .next t) :
    Effect s t := by
  unfold execRunCycle at h
  split at h
  · cases h
  · split at h
    · exact .held _ h
    · exact .cycled op tm (ok_of_outcome h)

theorem effect_loadConfiguration {es : List MapEntry} {s t : State}
    (h : execLoadConfiguration es s = .next t) : Effect s t := by
  unfold execLoadConfiguration at h
  split at h
  · exact .configured es (ok_of_outcome h)
  · exact .held _ h

/-- Everything an instruction can do to the state when it answers a next state. -/
theorem exec_effect {i : Instr} {s t : State} (h : exec i s = .next t) : Effect s t := by
  cases i
  -- transport words
  case txd | cwLength | cwSwTrigger | cwDelay | cwTimestamp | cwTriggerIrq | writeEndOfFrame
      | writeSoftwareTrigger | writeDelay | writeTimestamp | writeTriggerIRQ | writeLength =>
    exact effect_putWord h
  case rxd => exact effect_receiveWord (answeredBy_answer movedBy_readUnsigned) h
  case tsw => exact effect_receiveWord answeredBy_readTimestamp h
  case eof => exact effect_receiveWord (answeredBy_answer fun hu => by cases hu; exact movedBy_skip _) h
  case classTs | classEofw | classData => exact effect_receiveWord answeredBy_classify h
  -- success responses
  case rspFaReportServerID | rspHaReportServerID | rspHmReportServerID => exact effect_respond readBy_serverID h
  case rspFaReportServerStatus | rspHaReportServerStatus | rspHmReportServerStatus =>
    exact effect_respond readBy_serverStatus h
  case rspFaChangeILCMode | rspHaChangeILCMode | rspHmChangeILCMode => exact effect_respond readBy_mode h
  case rspFaSetBoostValveDCAGains | rspFaSetADCScanRate | rspFaSetADCChannelOffsetAndSensitivity | rspFaReset
      | rspFaReportDCAID | rspHaSetADCScanRate | rspHaSetADCChannelOffsetAndSensitivity | rspHaReset | rspHmReset
      | rspHmReportHMMezzanineID =>
    exact effect_respond readBy_raw h
  case rspFaReadBoostValveDCAGains => exact effect_respond readBy_gains h
  case rspFaForceDemand | rspFaPneumaticForceStatus => exact effect_respond readBy_forces h
  case rspFaReadCalibration | rspHaReadCalibration => exact effect_respond readBy_calibration h
  case rspFaReportDCAPressure => exact effect_respond readBy_pressure h
  case rspHmReportHMPressure => exact effect_respond readBy_pressureChecked h
  case rspFaReportDCAStatus | rspHmReportHMMezzanineStatus => exact effect_respond readBy_statusBits h
  case rspHaStepMotor | rspHaElectromechanicalForceAndStatus => exact effect_respond readBy_electromechanical h
  case rspHmReportLVDT => exact effect_respond readBy_lvdt h
  -- exception responses
  case excFa145 | excFa146 | excFa193 | excFa201 | excFa202 | excFa203 | excFa204 | excFa208 | excFa209 | excFa235
      | excFa238 | excFa247 | excFa248 | excFa249 | excHa145 | excHa146 | excHa193 | excHa194 | excHa195 | excHa208
      | excHa209 | excHa235 | excHa238 | excHm145 | excHm146 | excHm193 | excHm235 | excHm247 | excHm248 | excHm249
      | excHm250 =>
    exact effect_respondException h
  -- requests
  case encodeRequest a f p =>
    obtain ⟨ws, u, hu, ht⟩ := ok_of_answer h
    exact .built a f p ws u hu ht
  case reqStepMotorBroadcast | reqForceDemandBroadcast | reqFreezeSensorValuesElectromechanical
      | reqFreezeSensorValuesPneumatic | addBroadcast =>
    exact effect_broadcast h
  case reqReportServerID | reqReportServerStatus | reqChangeILCMode | reqSetADCScanRate
      | reqSetADCChannelOffsetAndSensitivity | reqReset | reqReadCalibration | reqReportDCAPressure | reqReportDCAID
      | reqReportDCAStatus | reqSetBoostValveDCAGains | reqReadBoostValveDCAGains | reqStepMotor
      | reqForceDemandSingle | reqForceDemandDual | reqPneumaticForceStatus | reqElectromechanicalForceAndStatus
      | reqReportLVDT | reqNopReportLVDT | reqReportHMPressure | reqReportHMMezzanineID | reqReportHMMezzanineStatus
      | addUnicast =>
    exact effect_unicast h
  -- the wire buffer
  case reset => cases h; exact .cleared rfl
  case load ws => exact .loaded ws (ok_of_outcome h)
  case writeU8 | writeI8 | writeU16 | writeI16 | writeI24 | writeU32 | writeI32 | writeSGL =>
    exact effect_putWords h
  case readU8 | readU16 | readU32 => exact effect_answer movedBy_readUnsigned h
  case readI8 | readI16 | readI24 | readI32 => exact effect_answer movedBy_readSigned h
  case readSGL => exact effect_answer movedBy_readFloat h
  case readCRC => exact effect_answer movedBy_readCrc h
  case readTimestamp => exact .answered (answeredBy_readTimestamp h)
  case skipToNextFrame => cases h; exact .answered ⟨_, s.ret, movedBy_skip s, rfl⟩
  -- computed values
  case endOfBuffer | endOfFrame | crc16 | lookup | actuatorIdOf => exact effect_ret h
  -- the CRC unit
  case calculateCRC => exact .answered (answeredBy_calculateCRC h)
  case writeCRC => exact effect_writeCRC h
  case checkFrameCRC fs n =>
    obtain ⟨ok, u, hu, ht⟩ := ok_of_answer h
    exact .crcChecked fs n ok u hu ht
  -- the validator
  case decodeBuffer sub ws => exact .bufferDecoded sub ws (ok_of_outcome h)
  case decodeFrame sub => exact .frameDecoded sub (ok_of_outcome h)
  case dispatch f fn => exact .dispatched f fn (ok_of_outcome h)
  case raise k aid => cases h; exact .raised k aid rfl
  -- the sequencer and the configuration
  case clearBusList op => cases ok_of_changingBusList h; exact .listCleared op rfl
  case runCycle => exact effect_runCycle h
  case verifyResponses => cases h; exact .verified rfl
  case loadConfiguration => exact effect_loadConfiguration h

/-! ### One step -/

theorem step_faulted {s : State} {f : Fault} (h : s.faulted = some f) : step s = .fault f := by
  simp only [step, h]

theorem step_refused {s : State} {r : Refusal} (hf : s.faulted = none) (h : s.refusalMark = some r) :
    step s = .refused r := by
  simp only [step, hf, h]

theorem step_unmarked {s : State} (hf : s.faulted = none) (hr : s.refusalMark = none) : step s = serve s.tick := by
  simp only [step, hf, hr]

theorem serve_noCall {s : State} (h : s.port = []) : serve s = outcome (advance s) := by
  simp only [serve, h]

theorem serve_call {s : State} {i : Instr} {rest : List Word} (hne : s.port ≠ [])
    (h : decode s.port = .ok (i, rest)) : serve s = exec i { s with port := rest } := by
  obtain ⟨w, ws, hp⟩ := List.exists_cons_of_ne_nil hne
  rw [hp] at h
  simp only [serve, hp, h]

theorem serve_undecodable {s : State} {e : DecodeError} (hne : s.port ≠ []) (h : decode s.port = .error e) :
    serve s = .refused (.undecodable e) := by
  obtain ⟨w, ws, hp⟩ := List.exists_cons_of_ne_nil hne
  rw [hp] at h
  simp only [serve, hp, h]

theorem advance_idle {s : State} (h : s.phase = .idle) : advance s = .ok s := by
  simp only [advance, h]

/-- Everything a step that answers a next state can have done: with no call pending one phase of the running cycle,
else the decoded instruction. -/
theorem step_cases {s t : State} (h : step s = .next t) :
    (s.port = [] ∧ advance s.tick = .ok t) ∨
      ∃ i rest, decode s.port = .ok (i, rest) ∧ exec i { s.tick with port := rest } = .next t := by
  cases hf : s.faulted with
  | some f => rw [step_faulted hf] at h; cases h
  | none =>
    cases hr : s.refusalMark with
    | some r => rw [step_refused hf hr] at h; cases h
    | none =>
      rw [step_unmarked hf hr] at h
      by_cases hp : s.tick.port = []
      · rw [serve_noCall hp] at h
        exact .inl ⟨hp, ok_of_outcome h⟩
      · cases hd : decode s.tick.port with
        | error e => rw [serve_undecodable hp hd] at h; cases h
        | ok x =>
          obtain ⟨i, rest⟩ := x
          rw [serve_call hp hd] at h
          exact .inr ⟨i, rest, hd, h⟩

end Sys2Proof.Machine

/-! The statements about the state as a whole: its invariant, its parameters, and what a step does with no call. -/
namespace Sys2Proof.Machine

open Sys2Proof.Safety

/-! ### The invariant -/

/-- A CRC check writes registers the invariant does not speak of. -/
theorem inv_checkFrameCRC {fs n : Nat} {b : Bool} {s t : State} (h : Inv s) (ht : checkFrameCRC fs n s = .ok (b, t)) :
    Inv t := by
  unfold checkFrameCRC at ht
  split at ht
  · cases ht; exact inv_registers h h.buffer.cursor rfl
  · split at ht
    · cases ht
    · split at ht
      · cases ht; exact inv_registers h h.buffer.cursor rfl
      · cases ht

theorem inv_effect {s t : State} (h : Inv s) (he : Effect s t) : Inv t := by
  cases he with
  | wrote ws ht => exact inv_putWords ws h ht
  | cleared ht => rw [ht]; exact inv_resetBuffer h
  | loaded ws ht => exact inv_loadBuffer h ht
  | answered ht => exact inv_answered h ht
  | received w u hu ht => exact inv_answered (inv_loadBuffer h hu) ht
  | crcChecked fs n ok u hu ht => rw [ht]; exact inv_ret _ (inv_checkFrameCRC h hu)
  | built a f p ws u hu ht => rw [ht]; exact inv_ret _ (inv_buildRequest h hu).1
  | unicast e op sub a f p ht => exact inv_appendUnicast h ht
  | broadcast op sub a f p ht => exact inv_appendBroadcast h ht
  | listCleared op ht => rw [ht]; exact inv_setBusList h fun it hit => by cases hit
  | responded fn r f hr ht => exact inv_respond hr h ht
  | excepted f ht => exact inv_respondException h ht
  | dispatched f fn ht => exact inv_dispatch h ht
  | raised k aid ht => rw [ht]; exact inv_raise k aid h
  | frameDecoded sub ht => exact inv_decodeOneFrame h ht
  | bufferDecoded sub ws ht => exact inv_decodeWholeBuffer h ht
  | verified ht => rw [ht]; exact inv_verifyAll h
  | cycled op tm ht => exact inv_wholeCycle h ht
  | held i ht => exact inv_hold h ht
  | configured es ht => exact inv_loadConfig h ht

/-- The inputs and the pending calls are no part of the invariant (log 1, log 7). -/
theorem inv_tick {s : State} (h : Inv s) : Inv s.tick := inv_registers h h.buffer.cursor rfl

theorem inv_port {s : State} (ws : List Word) (h : Inv s) : Inv { s with port := ws } :=
  inv_registers h h.buffer.cursor rfl

/-- Settles O3: each step is a phase of the running cycle or one effect of an instruction, and each keeps `Inv`. -/
theorem stepKeepsInvariant : Obligations.StepKeepsInvariant := by
  intro s t h hst
  rcases step_cases hst with ⟨-, hp⟩ | ⟨i, rest, -, he⟩
  · exact inv_advance (inv_tick h) hp
  · exact inv_effect (inv_port rest (inv_tick h)) (exec_effect he)

/-! ### The parameters -/

theorem fixed_effect {s t : State} (he : Effect s t) : Fixed s t := by
  cases he with
  | wrote ws ht => exact fixed_putWords ht
  | cleared ht => rw [ht]; exact ⟨rfl, rfl⟩
  | loaded ws ht => exact fixed_loadBuffer ht
  | answered ht => exact fixed_answered ht
  | received w u hu ht => exact (fixed_loadBuffer hu).trans (fixed_answered ht)
  | crcChecked fs n ok u hu ht => rw [ht]; exact fixed_ret _ (fixed_checkFrameCRC hu)
  | built a f p ws u hu ht => rw [ht]; exact fixed_ret _ (fixed_buildRequest hu)
  | unicast e op sub a f p ht => exact fixed_appendUnicast ht
  | broadcast op sub a f p ht => exact fixed_appendBroadcast ht
  | listCleared op ht => rw [ht]; exact ⟨rfl, rfl⟩
  | responded fn r f hr ht => exact fixed_respond hr ht
  | excepted f ht => exact fixed_respondException ht
  | dispatched f fn ht => exact fixed_dispatch ht
  | raised k aid ht => rw [ht]; exact ⟨rfl, rfl⟩
  | frameDecoded sub ht => exact fixed_decodeOneFrame ht
  | bufferDecoded sub ws ht => exact fixed_decodeWholeBuffer ht
  | verified ht => rw [ht]; exact fixed_verifyAll s
  | cycled op tm ht => exact fixed_wholeCycle ht
  | held i ht => exact fixed_hold ht
  | configured es ht => exact fixed_loadConfig ht

/-- Settles O60: neither a phase of the running cycle nor an effect of an instruction writes a parameter or the
capacity. -/
theorem noStepChangesAParameter : Obligations.NoStepChangesAParameter := by
  intro s t hst
  rcases step_cases hst with ⟨-, hp⟩ | ⟨i, rest, -, he⟩
  · exact (fixed_advance hp : Fixed s.tick t)
  · exact (fixed_effect (exec_effect he) : Fixed { s.tick with port := rest } t)

/-! ### A step with a mark set, with no call, or with words that are no instruction -/

/-- Settles O8: with no mark and no call a step is one phase, which always answers (`advance_phaseStep`). -/
theorem stepWithNoCallOrNoInstruction : Obligations.StepWithNoCallOrNoInstruction := by
  refine fun s => ⟨fun f => step_faulted, fun r => step_refused, fun hf hr => ?_⟩
  have hnone : s.port = [] → step s = outcome (advance s.tick) := fun hp =>
    (step_unmarked hf hr).trans (serve_noCall hp)
  refine ⟨fun hp hi => ?_, fun hp => ?_, fun e hne he => ?_⟩
  · rw [hnone hp, advance_idle (s := s.tick) hi]; rfl
  · obtain ⟨u, hu, hphase⟩ := advance_phaseStep s.tick
    exact ⟨u, hphase, by rw [hnone hp, hu]; rfl⟩
  · exact (step_unmarked hf hr).trans (serve_undecodable (s := s.tick) hne he)

end Sys2Proof.Machine

/-! The statements about the call at the port and the wide typed accesses of the wire buffer (20_memory.md): a step runs
the call it decodes, a wide write appends its bytes in order, and a wide read takes them back. -/
namespace Sys2Proof.Machine

open Sys2Proof.Safety

/-! ### A step with a call -/

theorem port_ne_nil_of_decode {ws rest : List Word} {i : Instr} (h : decode ws = .ok (i, rest)) : ws ≠ [] := by
  rintro rfl
  cases h

/-- Settles O7: with no mark a step serves the call, and a port that decodes is not empty. -/
theorem stepRunsTheDecodedInstruction : Obligations.StepRunsTheDecodedInstruction := by
  intro s i rest hf hr hd
  exact (step_unmarked hf hr).trans (serve_call (s := s.tick) (port_ne_nil_of_decode hd) hd)

/-! ### What a write answers -/

theorem outcome_error {e : Except Fault State} {f : Fault} (h : e = .error f) : outcome e = .fault f := by
  rw [h]; rfl

theorem outcome_putBytes_appends {bs : List Byte} {s : State} (hne : bs ≠ []) (hroom : s.idx + bs.length ≤ s.capacity) :
    ∃ t, outcome (putBytes bs s) = .next t ∧ Appended s t (bs.map txdWord) := by
  obtain ⟨t, ht, happ, -⟩ := putWords_ok (s := s) (bs.map txdWord) (by simpa using hne) (by simpa using hroom)
  exact ⟨t, by rw [putBytes, ht]; rfl, happ⟩

theorem putBytes_full {bs : List Byte} {s : State} (hne : bs ≠ []) (hfull : s.capacity < s.idx + bs.length) :
    putBytes bs s = .error .bufferOverflow :=
  putWords_full _ (by simpa using hne) (by simpa using hfull)

theorem beBytes_ne_nil {k : Nat} (v : Int) (hk : 0 < k) : beBytes k v ≠ [] :=
  List.ne_nil_of_length_pos (by rwa [beBytes_length])

theorem floatBytes_ne_nil (o : FloatOrder) (p : F32) : floatBytes o p ≠ [] :=
  List.ne_nil_of_length_pos (by rw [floatBytes_length]; decide)

/-- An integer write of `k` bytes, for the list `bs` its bytes are (R73). -/
theorem writeIntBE_appends {k : Nat} {v : Int} {bs : List Byte} {s : State} (hbs : beBytes k v = bs) (hk : 0 < k)
    (hroom : s.idx + k ≤ s.capacity) :
    ∃ t, outcome (writeIntBE k v s) = .next t ∧ Appended s t (bs.map txdWord) := by
  subst hbs
  exact outcome_putBytes_appends (beBytes_ne_nil v hk) (by rwa [beBytes_length])

theorem writeIntBE_full {k : Nat} {v : Int} {s : State} (hk : 0 < k) (hfull : s.capacity < s.idx + k) :
    writeIntBE k v s = .error .bufferOverflow :=
  putBytes_full (beBytes_ne_nil v hk) (by rwa [beBytes_length])

theorem floatBytes_lsbFirst (p : F32) : floatBytes .lsbFirst p =
    [p.extractLsb' 0 8, p.extractLsb' 8 8, p.extractLsb' 16 8, p.extractLsb' 24 8] := rfl

theorem floatBytes_msbFirst (p : F32) : floatBytes .msbFirst p =
    [p.extractLsb' 24 8, p.extractLsb' 16 8, p.extractLsb' 8 8, p.extractLsb' 0 8] := rfl

/-- A float write, for the list `bs` its bytes are in the order that stands (R130). -/
theorem writeFloat_appends {p : F32} {o : FloatOrder} {bs : List Byte} {s : State} (hbs : floatBytes o p = bs)
    (hroom : s.idx + 4 ≤ s.capacity) (horder : s.params.floatOrder = o) :
    ∃ t, outcome (writeFloat p s) = .next t ∧ Appended s t (bs.map txdWord) := by
  subst hbs horder
  exact outcome_putBytes_appends (floatBytes_ne_nil _ p) (by rwa [floatBytes_length])

theorem writeFloat_full {p : F32} {s : State} (hfull : s.capacity < s.idx + 4) :
    writeFloat p s = .error .bufferOverflow :=
  putBytes_full (floatBytes_ne_nil _ p) (by rwa [floatBytes_length])

/-- Settles O11: each wide write is one append of its bytes, which `beBytes_two` to `beBytes_four` and the float order
name. -/
theorem wideWritesStoreTheirWords : Obligations.WideWritesStoreTheirWords := by
  intro v p s
  refine ⟨?u16, ?i16, ?i24, ?u32, ?i32, ?sglLsb, ?sglMsb, ?u16Full, ?i16Full, ?i24Full, ?u32Full, ?i32Full, ?sglFull⟩
  case u16 | i16 => exact writeIntBE_appends (beBytes_two v) (Nat.succ_pos _)
  case i24 => exact writeIntBE_appends (beBytes_three v) (Nat.succ_pos _)
  case u32 | i32 => exact writeIntBE_appends (beBytes_four v) (Nat.succ_pos _)
  case sglLsb => exact writeFloat_appends (floatBytes_lsbFirst p)
  case sglMsb => exact writeFloat_appends (floatBytes_msbFirst p)
  case u16Full | i16Full | i24Full | u32Full | i32Full =>
    exact fun hfull => outcome_error (writeIntBE_full (Nat.succ_pos _) hfull)
  case sglFull => exact fun hfull => outcome_error (writeFloat_full hfull)

/-! ### What a read answers -/

theorem answer_ok {α : Type} {mk : α → Ret} {e : Except Fault (α × State)} {v : α} {u : State} (h : e = .ok (v, u)) :
    answer mk e = .next { u with ret := mk v } := by
  rw [h]; rfl

theorem answer_error {α : Type} {mk : α → Ret} {e : Except Fault (α × State)} {f : Fault} (h : e = .error f) :
    answer mk e = .fault f := by
  rw [h]; rfl

/-- An unsigned read, for the pattern `x` the bytes at the cursor make (R42). -/
theorem readUnsigned_pattern {n : Nat} {s : State} {ws : List Word} {x : BitVec n} (h : AtCursor s ws)
    (hx : be (ws.map byteOf) = x.toNat) :
    readUnsigned ws.length s = .ok (x.toNat, { s with idx := s.idx + ws.length }) := by
  rw [readUnsigned_ok ws h, hx]

/-- A signed read, for the pattern `x` the bytes at the cursor make (R42, R73). -/
theorem readSigned_pattern {s : State} {ws : List Word} {x : BitVec (8 * ws.length)} (h : AtCursor s ws)
    (hx : be (ws.map byteOf) = x.toNat) :
    readSigned ws.length s = .ok (x.toInt, { s with idx := s.idx + ws.length }) := by
  rw [readSigned_ok ws h, hx, sext_toNat]

theorem readFloat_lsb {s : State} {a b c d : Word} (h : AtCursor s [a, b, c, d])
    (horder : s.params.floatOrder = .lsbFirst) :
    readFloat s = .ok (byteOf d ++ byteOf c ++ byteOf b ++ byteOf a, { s with idx := s.idx + 4 }) := by
  rw [readFloat_ok h, horder, floatOf_lsb]

theorem readFloat_msb {s : State} {a b c d : Word} (h : AtCursor s [a, b, c, d])
    (horder : s.params.floatOrder = .msbFirst) :
    readFloat s = .ok (byteOf a ++ byteOf b ++ byteOf c ++ byteOf d, { s with idx := s.idx + 4 }) := by
  rw [readFloat_ok h, horder, floatOf_msb]

/-- The first CRC byte on the wire is the low one (R44). -/
theorem readCrcBytes_ok {s : State} {a b : Word} (h : AtCursor s [a, b]) :
    readCrcBytes s = .ok (byteOf b ++ byteOf a, { s with idx := s.idx + 2 }) := by
  have hbytes : getBytes 2 s = .ok ([byteOf a, byteOf b], { s with idx := s.idx + 2 }) := getBytes_ok _ h
  have hle : le [byteOf a, byteOf b] = (byteOf b ++ byteOf a).toNat := be_two _ _
  simp only [readCrcBytes, hbytes, hle, BitVec.ofNat_toNat, BitVec.setWidth_eq]

theorem readUnsigned_short {k : Nat} {s : State} (hk : 0 < k) (h : s.len < s.idx + k) :
    readUnsigned k s = .error .bufferOverrun := by
  simp only [readUnsigned, getBytes_short hk h]

theorem readSigned_short {k : Nat} {s : State} (hk : 0 < k) (h : s.len < s.idx + k) :
    readSigned k s = .error .bufferOverrun := by
  simp only [readSigned, getBytes_short hk h]

theorem readFloat_short {s : State} (h : s.len < s.idx + 4) : readFloat s = .error .bufferOverrun := by
  simp only [readFloat, getBytes_short (Nat.succ_pos _) h]

theorem readCrcBytes_short {s : State} (h : s.len < s.idx + 2) : readCrcBytes s = .error .bufferOverrun := by
  simp only [readCrcBytes, getBytes_short (Nat.succ_pos _) h]

/-- Settles O13: each wide read answers the pattern its bytes make (`be_two` to `be_four`), or the overrun of the first
byte that is missing. -/
theorem wideReadsTakeTheirBytes : Obligations.WideReadsTakeTheirBytes := by
  intro s w0 w1 w2 w3
  refine ⟨?u16, ?i16, ?i24, ?u32, ?i32, ?crc, ?sglLsb, ?sglMsb, ?u16Short, ?i16Short, ?i24Short, ?u32Short, ?i32Short,
    ?crcShort, ?sglShort⟩
  case u16 => exact fun h => answer_ok (readUnsigned_pattern h (be_two _ _))
  case i16 => exact fun h => answer_ok (readSigned_pattern h (be_two _ _))
  case i24 => exact fun h => answer_ok (readSigned_pattern h (be_three _ _ _))
  case u32 => exact fun h => answer_ok (readUnsigned_pattern h (be_four _ _ _ _))
  case i32 => exact fun h => answer_ok (readSigned_pattern h (be_four _ _ _ _))
  case crc => exact fun h => answer_ok (readCrcBytes_ok h)
  case sglLsb => exact fun h horder => answer_ok (readFloat_lsb h horder)
  case sglMsb => exact fun h horder => answer_ok (readFloat_msb h horder)
  case u16Short | u32Short => exact fun h => answer_error (readUnsigned_short (Nat.succ_pos _) h)
  case i16Short | i24Short | i32Short => exact fun h => answer_error (readSigned_short (Nat.succ_pos _) h)
  case crcShort => exact fun h => answer_error (readCrcBytes_short h)
  case sglShort => exact fun h => answer_error (readFloat_short h)

end Sys2Proof.Machine

/-! The statements about the encoding (30_encoding.md): the call port's decoder inverts its encoder and gives only
well-formed instructions, and an inbound data or timestamp word decodes to its byte. -/
namespace Sys2Proof

open Sys2Proof.Machine

/-! ### The tag nibble of a transport word -/

/-- A mask that keeps the tag nibble keeps the tag. -/
theorem tag_and {m : Word} (w : Word) (hm : tag m = BitVec.allOnes 4) : tag (w &&& m) = tag w := by
  rw [tag, BitVec.extractLsb'_and]
  exact (congrArg (tag w &&& ·) hm).trans BitVec.and_allOnes

theorem tag_of_isTxd {w : Word} (h : isTxd w = true) : tag w = 0x1#4 := by
  rw [← tag_and w (m := 0xFE01#16) (by decide), beq_iff_eq.1 h]; decide

theorem tag_of_isRxd {w : Word} (h : isRxd w = true) : tag w = 0x9#4 := by
  rw [← tag_and w (m := 0xFE01#16) (by decide), beq_iff_eq.1 h]; decide

theorem tag_of_isTsw {w : Word} (h : isTsw w = true) : tag w = 0xB#4 := by
  rw [← tag_and w (m := 0xFF00#16) (by decide), beq_iff_eq.1 h]; decide

theorem tag_eofWord : tag eofWord = 0xA#4 := by decide

@[simp] theorem isRxd_rxdWord (b : Byte) : isRxd (rxdWord b) = true := by
  revert b; decide +kernel

@[simp] theorem isTsw_tswWord (b : Byte) : isTsw (tswWord b) = true := by
  revert b; decide +kernel

theorem classify_eq_ts_iff {w : Word} : classify w = .ts ↔ tag w = 0xB#4 := by
  unfold classify; split_ifs <;> simp [*]

theorem classify_eq_eofw_iff {w : Word} : classify w = .eofw ↔ tag w = 0xA#4 := by
  unfold classify; split_ifs <;> simp [*]

theorem classify_eq_data_iff {w : Word} : classify w = .data ↔ tag w ≠ 0xB#4 ∧ tag w ≠ 0xA#4 := by
  unfold classify; split_ifs <;> simp [*]

/-! ### Which row a transport word decodes to -/

theorem classTs_wf_iff {w : Word} : (Instr.classTs w).wf = true ↔ classify w = .ts ∧ isTsw w = false := by
  simp [Instr.wf]

theorem classEofw_wf_iff {w : Word} : (Instr.classEofw w).wf = true ↔ classify w = .eofw ∧ w ≠ eofWord := by
  simp [Instr.wf]

theorem classData_wf_iff {w : Word} :
    (Instr.classData w).wf = true ↔ classify w = .data ∧ isTxd w = false ∧ isRxd w = false := by
  simp [Instr.wf, and_assoc]

theorem isTxd_of_tag {w : Word} (h : tag w ≠ 0x1#4) : isTxd w = false :=
  Bool.eq_false_iff.2 fun ht => h (tag_of_isTxd ht)

theorem isRxd_of_tag {w : Word} (h : tag w ≠ 0x9#4) : isRxd w = false :=
  Bool.eq_false_iff.2 fun ht => h (tag_of_isRxd ht)

theorem isTsw_of_tag {w : Word} (h : tag w ≠ 0xB#4) : isTsw w = false :=
  Bool.eq_false_iff.2 fun ht => h (tag_of_isTsw ht)

theorem ne_eofWord_of_tag {w : Word} (h : tag w ≠ 0xA#4) : w ≠ eofWord :=
  fun he => h (he ▸ tag_eofWord)

theorem decodeTransport_txd {w : Word} (h : isTxd w = true) : decodeTransport w = .txd (byteOf w) := if_pos h

theorem decodeTransport_rxd {w : Word} (h : isRxd w = true) : decodeTransport w = .rxd (byteOf w) := by
  have ht := tag_of_isRxd h
  simp [decodeTransport, h, isTxd_of_tag, ht]

theorem decodeTransport_tsw {w : Word} (h : isTsw w = true) : decodeTransport w = .tsw (tsByteOf w) := by
  have ht := tag_of_isTsw h
  simp [decodeTransport, h, isTxd_of_tag, isRxd_of_tag, ht]

theorem decodeTransport_eofWord : decodeTransport eofWord = .eof := by decide

theorem decodeTransport_classTs {w : Word} (hc : classify w = .ts) (hs : isTsw w = false) :
    decodeTransport w = .classTs w := by
  have ht := classify_eq_ts_iff.1 hc
  simp [decodeTransport, hc, hs, isTxd_of_tag, isRxd_of_tag, ne_eofWord_of_tag, ht]

theorem decodeTransport_classEofw {w : Word} (hc : classify w = .eofw) (he : w ≠ eofWord) :
    decodeTransport w = .classEofw w := by
  have ht := classify_eq_eofw_iff.1 hc
  simp [decodeTransport, hc, he, isTxd_of_tag, isRxd_of_tag, isTsw_of_tag, ht]

theorem decodeTransport_classData {w : Word} (hc : classify w = .data) (ht : isTxd w = false) (hr : isRxd w = false) :
    decodeTransport w = .classData w := by
  obtain ⟨hts, heofw⟩ := classify_eq_data_iff.1 hc
  simp [decodeTransport, hc, ht, hr, isTsw_of_tag hts, ne_eofWord_of_tag heofw]

/-- The row a transport word decodes to is well-formed: a class row is reached only past the more specific ones. -/
theorem decodeTransport_wf (w : Word) : (decodeTransport w).wf = true := by
  unfold decodeTransport
  split_ifs with htxd hrxd htsw heof
  case pos | pos | pos | pos => rfl
  case neg =>
    split
    case h_1 hc => exact classTs_wf_iff.2 ⟨hc, Bool.eq_false_iff.2 htsw⟩
    case h_2 hc => exact classEofw_wf_iff.2 ⟨hc, heof⟩
    case h_3 hc => exact classData_wf_iff.2 ⟨hc, Bool.eq_false_iff.2 htxd, Bool.eq_false_iff.2 hrxd⟩

/-! ### Transport words at the call port -/

theorem decode_txdWord (b : Byte) (rest : List Word) : decode (txdWord b :: rest) = .ok (.txd b, rest) := by
  have ht := tag_of_isTxd (isTxd_txdWord b)
  rw [decode_word (by rw [ht]; decide), decodeTransport_txd (isTxd_txdWord b), byteOf_txdWord]

theorem decode_rxdWord (b : Byte) (rest : List Word) : decode (rxdWord b :: rest) = .ok (.rxd b, rest) := by
  have ht := tag_of_isRxd (isRxd_rxdWord b)
  rw [decode_word (by rw [ht]; decide), decodeTransport_rxd (isRxd_rxdWord b), byteOf_rxdWord]

theorem decode_tswWord (b : Byte) (rest : List Word) : decode (tswWord b :: rest) = .ok (.tsw b, rest) := by
  have ht := tag_of_isTsw (isTsw_tswWord b)
  rw [decode_word (by rw [ht]; decide), decodeTransport_tsw (isTsw_tswWord b), tsByteOf_tswWord]

theorem decode_eofWord (rest : List Word) : decode (eofWord :: rest) = .ok (.eof, rest) := by
  rw [decode_word (by rw [tag_eofWord]; decide), decodeTransport_eofWord]

theorem decode_classTs {w : Word} (h : (Instr.classTs w).wf = true) (rest : List Word) :
    decode (w :: rest) = .ok (.classTs w, rest) := by
  obtain ⟨hc, hs⟩ := classTs_wf_iff.1 h
  rw [decode_word (by rw [classify_eq_ts_iff.1 hc]; decide), decodeTransport_classTs hc hs]

theorem decode_classEofw {w : Word} (h : (Instr.classEofw w).wf = true) (rest : List Word) :
    decode (w :: rest) = .ok (.classEofw w, rest) := by
  obtain ⟨hc, he⟩ := classEofw_wf_iff.1 h
  rw [decode_word (by rw [classify_eq_eofw_iff.1 hc]; decide), decodeTransport_classEofw hc he]

set_option maxRecDepth 4000 in
/-- A data word of tag 0 would be taken for a call word, so it is delivered as the operand of 0x0F00 (log 1). -/
theorem decode_classData {w : Word} (h : (Instr.classData w).wf = true) (rest : List Word) :
    decode (encode (.classData w) ++ rest) = .ok (.classData w, rest) := by
  obtain ⟨hc, ht, hr⟩ := classData_wf_iff.1 h
  have hdec := decodeTransport_classData hc ht hr
  rw [encode]
  split
  case isTrue h0 => exact decode_call (by decide) rfl (hdec ▸ (reads_bits w).map decodeTransport) rest
  case isFalse h0 => exact (decode_word h0 rest).trans (by rw [hdec])

/-- Settles O5: the words are those of `rxdWord` and `tswWord`, whose patterns select the rows RXD and TSW. -/
theorem inboundWordsDecode : Obligations.InboundWordsDecode := fun b rest =>
  ⟨decode_rxdWord b rest, byteOf_rxdWord b, decode_tswWord b rest, tsByteOf_tswWord b⟩

/-! ### The round trip of a call -/

/-- A routed frame of a channel of the row's device type reads back (R80). -/
theorem reads_routedOf {dt : DeviceType} {f : Routed} (h : channelIs dt f = true) :
    Reads (parseRouted dt) (encRouted f) f := by
  obtain rfl : f.ch.deviceType = dt := of_decide_eq_true h
  exact reads_routed f

theorem reads_addressed (mk : Op × Int × Byte × Byte × List Byte → Instr) (op : Op) (s : Int) (a f : Byte)
    (p : List Byte) :
    Reads ((parseNat.pair (parseInt.pair ((parseBits 8).pair ((parseBits 8).pair (parseBits 8).list)))).map mk)
      (encNat op ++ encInt s ++ encBits a ++ encBits f ++ encList encBits p) (mk (op, s, a, f, p)) := by
  simp only [List.append_assoc]
  exact ((reads_nat op).pair ((reads_int s).pair ((reads_bits a).pair ((reads_bits f).pair (reads_bitsList p))))).map mk

theorem reads_frameBytes (mk : Byte × Byte × List Byte → Instr) (a f : Byte) (p : List Byte) :
    Reads (((parseBits 8).pair ((parseBits 8).pair (parseBits 8).list)).map mk)
      (encBits a ++ encBits f ++ encList encBits p) (mk (a, f, p)) := by
  simp only [List.append_assoc]
  exact ((reads_bits a).pair ((reads_bits f).pair (reads_bitsList p))).map mk

set_option maxRecDepth 4000 in
/-- Decoding the words of a well-formed instruction gives it back. -/
theorem decode_encode (i : Instr) (rest : List Word) (h : i.wf = true) : decode (encode i ++ rest) = .ok (i, rest) := by
  cases i
  -- transport words
  case txd b => exact decode_txdWord b rest
  case rxd b => exact decode_rxdWord b rest
  case tsw b => exact decode_tswWord b rest
  case eof => exact decode_eofWord rest
  case classTs w => exact decode_classTs h rest
  case classEofw w => exact decode_classEofw h rest
  case classData w => exact decode_classData h rest
  -- calls with no operand
  case cwSwTrigger | cwTimestamp | cwTriggerIrq | reset | readU8 | readI8 | readU16 | readI16 | readI24 | readU32
      | readI32 | readSGL | writeEndOfFrame | writeSoftwareTrigger | writeTimestamp | writeTriggerIRQ | endOfBuffer
      | endOfFrame | skipToNextFrame | readTimestamp | readCRC | verifyResponses =>
    exact decode_call (by decide) rfl (reads_nothing _) rest
  -- calls with one natural, integer or bit pattern
  case cwLength n | cwDelay n | writeDelay n | writeLength n | writeCRC n | clearBusList n =>
    exact decode_call (by decide) rfl ((reads_nat n).map _) rest
  case writeU8 v | writeI8 v | writeU16 v | writeI16 v | writeI24 v | writeU32 v | writeI32 v | decodeFrame v =>
    exact decode_call (by decide) rfl ((reads_int v).map _) rest
  case writeSGL p => exact decode_call (by decide) rfl ((reads_bits p).map _) rest
  case load l | crc16 l => exact decode_call (by decide) rfl ((reads_bitsList l).map _) rest
  case loadConfiguration es =>
    exact decode_call (by decide) rfl ((reads_list es fun e _ => reads_mapEntry e).map _) rest
  -- calls with several operands
  case calculateCRC m n =>
    exact decode_call (by decide) rfl (((reads_nat m).pair (reads_nat n)).map fun x => Instr.calculateCRC x.1 x.2) rest
  case checkFrameCRC m n =>
    exact decode_call (by decide) rfl (((reads_nat m).pair (reads_nat n)).map fun x => Instr.checkFrameCRC x.1 x.2) rest
  case encodeRequest a f p =>
    exact decode_call (by decide) rfl (reads_frameBytes (fun x => Instr.encodeRequest x.1 x.2.1 x.2.2) a f p) rest
  case addUnicast op s a f p =>
    exact decode_call (by decide) rfl
      (reads_addressed (fun x => Instr.addUnicast x.1 x.2.1 x.2.2.1 x.2.2.2.1 x.2.2.2.2) op s a f p) rest
  case addBroadcast op s a f p =>
    exact decode_call (by decide) rfl
      (reads_addressed (fun x => Instr.addBroadcast x.1 x.2.1 x.2.2.1 x.2.2.2.1 x.2.2.2.2) op s a f p) rest
  case lookup s a =>
    exact decode_call (by decide) rfl (((reads_int s).pair (reads_bits a)).map fun x => Instr.lookup x.1 x.2) rest
  case actuatorIdOf dt n =>
    exact decode_call (by decide) rfl
      (((reads_deviceType dt).pair (reads_int n)).map fun x => Instr.actuatorIdOf x.1 x.2) rest
  case decodeBuffer s ws =>
    exact decode_call (by decide) rfl
      (((reads_int s).pair (reads_bitsList ws)).map fun x => Instr.decodeBuffer x.1 x.2) rest
  case dispatch f fn => exact decode_call (by decide) rfl (reads_dispatch f fn) rest
  case runCycle op t => exact decode_runCycle op t rest
  case raise k aid =>
    exact decode_call (by decide) rfl (((reads_warnKind k).pair (reads_int aid)).map fun x => Instr.raise x.1 x.2) rest
  -- requests
  case reqStepMotorBroadcast op s p | reqForceDemandBroadcast op s p | reqFreezeSensorValuesElectromechanical op s p
      | reqFreezeSensorValuesPneumatic op s p =>
    exact decode_call (by decide) rfl (reads_broadcast _ op s p) rest
  case reqReportServerID op s a p | reqReportServerStatus op s a p | reqChangeILCMode op s a p
      | reqSetADCScanRate op s a p | reqSetADCChannelOffsetAndSensitivity op s a p | reqReset op s a p
      | reqReadCalibration op s a p | reqReportDCAPressure op s a p | reqReportDCAID op s a p
      | reqReportDCAStatus op s a p | reqSetBoostValveDCAGains op s a p | reqReadBoostValveDCAGains op s a p
      | reqStepMotor op s a p | reqForceDemandSingle op s a p | reqForceDemandDual op s a p
      | reqPneumaticForceStatus op s a p | reqElectromechanicalForceAndStatus op s a p | reqReportLVDT op s a p
      | reqNopReportLVDT op s a p | reqReportHMPressure op s a p | reqReportHMMezzanineID op s a p
      | reqReportHMMezzanineStatus op s a p =>
    exact decode_call (by decide) rfl (reads_request _ op s a p) rest
  -- success and exception responses, each of a channel of its row's device type
  all_goals exact decode_call (by decide) rfl ((reads_routedOf h).map _) rest

/-! ### What the decoder gives -/

/-- Whatever words the parser accepts, what it reads has the property. -/
def Gives {α : Type} (p : Parser α) (P : α → Prop) : Prop := ∀ ws a rest, p ws = .ok (a, rest) → P a

/-- The parser reads well-formed instructions only. -/
def GivesWf (p : Parser Instr) : Prop := Gives p fun i => i.wf = true

variable {α β : Type}

theorem Gives.map {p : Parser α} {P : α → Prop} {Q : β → Prop} {f : α → β} (hp : Gives p P)
    (hf : ∀ a, P a → Q (f a)) : Gives (p.map f) Q := fun ws b rest h => by
  unfold Parser.map at h
  split at h
  case h_1 => cases h
  case h_2 a ws' ha => cases h; exact hf a (hp ws a _ ha)

theorem Gives.pairFst {p : Parser α} {q : Parser β} {P : α → Prop} (hp : Gives p P) :
    Gives (p.pair q) fun x => P x.1 := fun ws x rest h => by
  unfold Parser.pair at h
  split at h
  case h_1 => cases h
  case h_2 a ws' ha =>
    split at h
    case h_1 => cases h
    case h_2 => cases h; exact hp ws a ws' ha

theorem gives_true (p : Parser α) : Gives p fun _ => True := fun _ _ _ _ => trivial

theorem gives_channel (dt : DeviceType) : Gives (parseChannel dt) fun c => c.deviceType = dt :=
  (gives_true _).map fun _ _ => rfl

/-- The channel a response row reads is of the device type the row names (R80). -/
theorem gives_routed (dt : DeviceType) : Gives (parseRouted dt) fun f => channelIs dt f = true :=
  (gives_channel dt).pairFst.map fun _ h => decide_eq_true h

theorem givesWf_nothing {i : Instr} (h : i.wf = true) : GivesWf (.nothing i) := fun _ _ _ he => by cases he; exact h

theorem givesWf_map {p : Parser α} {mk : α → Instr} (h : ∀ a, (mk a).wf = true) : GivesWf (p.map mk) :=
  (gives_true p).map fun a _ => h a

theorem givesWf_routed {dt : DeviceType} {mk : Routed → Instr} (h : ∀ f, (mk f).wf = channelIs dt f) :
    GivesWf ((parseRouted dt).map mk) := (gives_routed dt).map fun f hf => (h f).trans hf

theorem givesWf_dispatch : GivesWf parseDispatch := fun ws i rest h => by
  unfold parseDispatch at h
  split at h
  · cases h
  · exact givesWf_map (fun _ => rfl) _ i rest h

/-! ### The rows of the call table -/

theorem wordCalls_givesWf : ∀ row ∈ wordCalls, GivesWf row.2 := by
  simp only [wordCalls, List.forall_mem_cons, List.not_mem_nil, false_imp_iff, implies_true, and_true]
  refine ⟨?transport, ?length, ?swTrigger, ?delay, ?timestamp, ?triggerIrq⟩
  case transport => exact givesWf_map decodeTransport_wf
  case length | delay => exact givesWf_map fun _ => rfl
  case swTrigger | timestamp | triggerIrq => exact givesWf_nothing rfl

theorem responseCalls_givesWf : ∀ row ∈ responseCalls, GivesWf row.2 := by
  simp only [responseCalls, List.forall_mem_cons, List.not_mem_nil, false_imp_iff, implies_true, and_true]
  and_intros <;> exact givesWf_routed fun _ => rfl

theorem exceptionCalls_givesWf : ∀ row ∈ exceptionCalls, GivesWf row.2 := by
  simp only [exceptionCalls, List.forall_mem_cons, List.not_mem_nil, false_imp_iff, implies_true, and_true]
  and_intros <;> exact givesWf_routed fun _ => rfl

theorem requestCalls_givesWf : ∀ row ∈ requestCalls, GivesWf row.2 := by
  simp only [requestCalls, List.forall_mem_cons, List.not_mem_nil, false_imp_iff, implies_true, and_true]
  and_intros <;> exact givesWf_map fun _ => rfl

theorem interfaceCalls_givesWf : ∀ row ∈ interfaceCalls, GivesWf row.2 := by
  simp only [interfaceCalls, List.forall_mem_cons, List.not_mem_nil, false_imp_iff, implies_true, and_true]
  refine ⟨?reset, ?load, ?writeU8, ?writeI8, ?writeU16, ?writeI16, ?writeI24, ?writeU32, ?writeI32, ?writeSGL,
    ?readU8, ?readI8, ?readU16, ?readI16, ?readI24, ?readU32, ?readI32, ?readSGL, ?writeEndOfFrame,
    ?writeSoftwareTrigger, ?writeDelay, ?writeTimestamp, ?writeTriggerIRQ, ?writeLength, ?endOfBuffer, ?endOfFrame,
    ?skipToNextFrame, ?readTimestamp, ?readCRC, ?crc16, ?calculateCRC, ?writeCRC, ?checkFrameCRC, ?encodeRequest,
    ?addUnicast, ?addBroadcast, ?lookup, ?actuatorIdOf, ?decodeBuffer, ?decodeFrame, ?dispatch, ?clearBusList,
    ?runCycle, ?verifyResponses, ?raise, ?loadConfiguration⟩
  case reset | readU8 | readI8 | readU16 | readI16 | readI24 | readU32 | readI32 | readSGL | writeEndOfFrame
      | writeSoftwareTrigger | writeTimestamp | writeTriggerIRQ | endOfBuffer | endOfFrame | skipToNextFrame
      | readTimestamp | readCRC | verifyResponses =>
    exact givesWf_nothing rfl
  case dispatch => exact givesWf_dispatch
  all_goals exact givesWf_map fun _ => rfl

theorem callTable_givesWf : ∀ row ∈ callTable, GivesWf row.2 := by
  simp only [callTable, List.forall_mem_append]
  exact ⟨⟨⟨⟨wordCalls_givesWf, responseCalls_givesWf⟩, exceptionCalls_givesWf⟩, requestCalls_givesWf⟩,
    interfaceCalls_givesWf⟩

theorem mem_of_operandParser {op : Nat} {p : Parser Instr} {rows : List (Nat × Parser Instr)}
    (h : operandParser op rows = some p) : (op, p) ∈ rows := by
  induction rows with
  | nil => cases h
  | cons row rows ih =>
    rw [operandParser] at h
    split at h
    case isTrue hk => cases h; subst hk; exact List.mem_cons_self
    case isFalse => exact List.mem_cons_of_mem _ (ih h)

/-- Whatever words are decoded, the instruction they give is well-formed. -/
theorem decode_wf : GivesWf decode := by
  intro ws i rest h
  cases ws with
  | nil => cases h
  | cons w ws =>
    rw [decode] at h
    split at h
    case isTrue =>
      split at h
      case h_1 p hp => exact callTable_givesWf _ (mem_of_operandParser hp) ws i rest h
      case h_2 => cases h
    case isFalse => cases h; exact decodeTransport_wf w

/-- Settles O4: each row's operands read back behind its call word or transport word, and each row of the call table
reads well-formed instructions only. -/
theorem decodeEncodeRoundTrip : Obligations.DecodeEncodeRoundTrip :=
  ⟨decode_encode, fun ws rest i => decode_wf ws i rest⟩

end Sys2Proof

/-! The statements about single words of the wire buffer and about typed accesses: an outbound word is one write, an
inbound word one load and one look at it, and a typed read inverts the typed write of its type (41_wirebuffer.md). -/
namespace Sys2Proof.Machine

open Sys2Proof.Safety

/-! ### Outbound words -/

theorem outcome_putWord_appends {w : Word} {s : State} (hroom : s.idx < s.capacity) :
    ∃ t, outcome (putWord w s) = .next t ∧ Appended s t [w] := by
  obtain ⟨t, ht, happ, -⟩ := putWord_ok w hroom
  exact ⟨t, by rw [ht]; rfl, happ⟩

theorem outcome_putWord_full {w : Word} {s : State} (hfull : s.capacity ≤ s.idx) :
    outcome (putWord w s) = .fault .bufferOverflow := outcome_error (putWord_full w hfull)

/-- R65 in the spec's own terms. -/
theorem controlWord_and_ne (c : Control) : controlWord c &&& 0xFE01#16 ≠ 0x1200#16 := fun h =>
  Bool.false_ne_true ((isTxd_controlWord c).symm.trans (beq_iff_eq.2 h))

/-- Settles O10: every outbound row and control operation is one `putWord`. -/
theorem wordWritesStoreOneWord : Obligations.WordWritesStoreOneWord := by
  intro b k s
  refine ⟨fun hroom => ?room, fun hfull => ?full, controlWord_and_ne⟩
  case room => and_intros <;> exact outcome_putWord_appends hroom
  case full => and_intros <;> exact outcome_putWord_full hfull

/-! ### A typed read behind the typed write of its type -/

/-- The words a write appended stand where it began. -/
theorem appended_atCursor {s t : State} {ws : List Word} (h : Appended s t ws) :
    AtCursor { t with idx := s.idx } ws := by
  intro j hj
  have hlen : s.idx + j < t.len := by rw [h.length]; omega
  show wordAt t (s.idx + j) = ws[j]?
  rw [wordAt, if_pos hlen, h.memory, if_neg (by omega), Nat.add_sub_cancel_left]

/-- Back at the start of the words a write appended, moving past them leads to the state after the write. -/
theorem appended_advance {s t : State} {ws : List Word} (h : Appended s t ws) :
    ({ t with idx := s.idx + ws.length } : State) = t := by
  rw [← h.cursor]

/-- A write of bytes that completes has appended their data words. -/
theorem appended_of_putBytes {bs : List Byte} {s t : State} (hne : bs ≠ [])
    (h : outcome (putBytes bs s) = .next t) : Appended s t (bs.map txdWord) := by
  rcases putWords_cases (s := s) (bs.map txdWord) (by simpa using hne) with ⟨-, u, hu, happ, -⟩ | ⟨-, hfull⟩
  · cases hu.symm.trans (ok_of_outcome h); exact happ
  · cases hfull.symm.trans (ok_of_outcome h)

/-- The bytes read back from where a write of them began are the bytes, and the read ends where the write did. -/
theorem getBytes_after_putBytes {bs : List Byte} {s t : State} (hne : bs ≠ [])
    (h : outcome (putBytes bs s) = .next t) : getBytes bs.length { t with idx := s.idx } = .ok (bs, t) := by
  have happ := appended_of_putBytes hne h
  have hget := getBytes_ok _ (appended_atCursor happ)
  rw [map_byteOf_txdWord, List.length_map] at hget
  have hend := appended_advance happ
  rw [List.length_map] at hend
  rw [hget]
  exact congrArg (fun u => Except.ok (bs, u)) hend

theorem getBytes_after_writeIntBE {k : Nat} {v : Int} {s t : State} (hk : 0 < k)
    (h : outcome (writeIntBE k v s) = .next t) : getBytes k { t with idx := s.idx } = .ok (beBytes k v, t) := by
  have hget := getBytes_after_putBytes (beBytes_ne_nil v hk) h
  rwa [beBytes_length] at hget

/-- R73: an unsigned read reduces what was written modulo `2 ^ (8 * k)`. -/
theorem readUnsigned_after_write {k : Nat} {v : Int} {s t : State} (hk : 0 < k)
    (h : outcome (writeIntBE k v s) = .next t) :
    answer (fun n : Nat => Ret.int n) (readUnsigned k { t with idx := s.idx }) =
      .next { t with ret := .int (v % 2 ^ (8 * k)) } := by
  have hread : readUnsigned k { t with idx := s.idx } = .ok ((BitVec.ofInt (8 * k) v).toNat, t) := by
    simp only [readUnsigned, getBytes_after_writeIntBE hk h, be_beBytes]
  have hval : ((BitVec.ofInt (8 * k) v).toNat : Int) = v % 2 ^ (8 * k) := by
    rw [BitVec.toNat_ofInt, Int.toNat_of_nonneg (Int.emod_nonneg _ (by positivity))]
    norm_cast
  rw [answer_ok hread, hval]

/-- R73: a signed read reduces what was written to the two's-complement range of `8 * k` bits. -/
theorem readSigned_after_write {k : Nat} {v : Int} {s t : State} (hk : 0 < k)
    (h : outcome (writeIntBE k v s) = .next t) :
    answer Ret.int (readSigned k { t with idx := s.idx }) = .next { t with ret := .int (v.bmod (2 ^ (8 * k))) } := by
  have hread : readSigned k { t with idx := s.idx } = .ok ((BitVec.ofInt (8 * k) v).toInt, t) := by
    simp only [readSigned, getBytes_after_writeIntBE hk h, be_beBytes, sext_toNat]
  rw [answer_ok hread, BitVec.toInt_ofInt]

/-- A float read gives back the written pattern bit for bit: both use the one order P_FLOAT_ORDER (R43, R73). -/
theorem readFloat_after_write {p : F32} {s t : State} (h : outcome (writeFloat p s) = .next t) :
    answer Ret.float (readFloat { t with idx := s.idx }) = .next { t with ret := .float p } := by
  have hne := floatBytes_ne_nil s.params.floatOrder p
  have hparams : t.params = s.params := by rw [(appended_of_putBytes hne h).frame]
  have hget := getBytes_after_putBytes hne h
  rw [floatBytes_length] at hget
  have hread : readFloat { t with idx := s.idx } = .ok (p, t) := by
    simp only [readFloat, hget]
    rw [hparams, floatOf_floatBytes]
  rw [answer_ok hread]

/-- Settles O14: each pair of a write and a read is one of the three above, at its width. -/
theorem typedReadsInvertTypedWrites : Obligations.TypedReadsInvertTypedWrites := by
  intro v p s t
  refine ⟨?u8, ?i8, ?u16, ?i16, ?i24, ?u32, ?i32, ?sgl⟩
  case u8 | u16 | u32 => exact readUnsigned_after_write (Nat.succ_pos _)
  case i8 | i16 | i24 | i32 => exact readSigned_after_write (Nat.succ_pos _)
  case sgl => exact readFloat_after_write

/-! ### Inbound words -/

/-- `s` with a buffer of the one word `w` and the cursor at it (R121). -/
def holding (w : Word) (s : State) : State := { s with buf := [(0, w)], len := 1, idx := 0 }

theorem receiveWord_eq {w : Word} {take : State → Host.Outcome State Fault Refusal} {s : State}
    (h : 1 ≤ s.capacity) : receiveWord w take s = take (holding w s) := by
  rw [receiveWord, loadBuffer_ok (ws := [w]) h]; rfl

theorem atCursor_holding (w : Word) (s : State) : AtCursor (holding w s) [w] := fun j hj => by
  obtain rfl : j = 0 := by simpa using hj
  rfl

@[simp] theorem wordAt_holding_zero (w : Word) (s : State) : wordAt (holding w s) 0 = some w := rfl

@[simp] theorem wordAt_holding_one (w : Word) (s : State) : wordAt (holding w s) 1 = none := rfl

theorem classAt_holding (w : Word) (s : State) (c : WordClass) :
    classAt (holding w s) 0 c = decide (classify w = c) := rfl

/-- One timestamp word is the low byte of the timestamp; the missing ones are 0 (R45). -/
theorem readTimestamp_holding {w : Word} (s : State) (h : classify w = .ts) :
    readTimestamp (holding w s) = ((tsByteOf w).setWidth 64, { holding w s with idx := 1 }) := by
  have hbytes : tsBytesAt (holding w s) tsWords 0 = [tsByteOf w] := by simp [tsWords, tsBytesAt, h]
  have hstamp : BitVec.ofNat 64 (le [tsByteOf w]) = (tsByteOf w).setWidth 64 := by
    simp [le, be, BitVec.ofNat_toNat]
  show (BitVec.ofNat 64 (le (tsBytesAt (holding w s) tsWords 0)),
    ({ holding w s with idx := 0 + (tsBytesAt (holding w s) tsWords 0).length } : State)) = _
  rw [hbytes, hstamp]; rfl

theorem skipToNextFrame_holding {w : Word} (s : State) (h : classify w = .eofw) :
    skipToNextFrame (holding w s) = { holding w s with idx := 1 } := by
  have heof : findEof (holding w s) 1 0 = 0 := by simp [findEof, classAt_holding, h]
  have hnext : nextFrame (holding w s) = 1 := by
    show (if findEof (holding w s) 1 0 < 1 then findEof (holding w s) 1 0 + 1 else _) = 1
    rw [heof]; rfl
  rw [skipToNextFrame, hnext]

theorem classifyAtCursor_holding (w : Word) (s : State) :
    classifyAtCursor (holding w s) = .next { holding w s with ret := .wordClass (classify w) } := rfl

/-- Classifying a word that is received by itself answers its class and leaves the cursor at it (R66, log 3). -/
theorem receiveWord_classify {w : Word} {c : WordClass} {s : State} (h : 1 ≤ s.capacity) (hc : classify w = c) :
    receiveWord w classifyAtCursor s = .next { holding w s with ret := .wordClass c } := by
  rw [receiveWord_eq h, classifyAtCursor_holding, hc]

theorem exec_rxd {s : State} (b : Byte) (h : 1 ≤ s.capacity) :
    exec (.rxd b) s = .next { holding (rxdWord b) s with idx := 1, ret := .int b.toNat } := by
  have hbyte : be ([rxdWord b].map byteOf) = b.toNat := by simp [be]
  exact (receiveWord_eq h).trans (answer_ok (readUnsigned_pattern (atCursor_holding _ _) hbyte))

theorem exec_tsw {s : State} (b : Byte) (h : 1 ≤ s.capacity) :
    exec (.tsw b) s = .next { holding (tswWord b) s with idx := 1, ret := .stamp (b.setWidth 64) } := by
  have hread := readTimestamp_holding s (classify_tswWord b)
  rw [tsByteOf_tswWord] at hread
  exact (receiveWord_eq h).trans (answer_ok (congrArg Except.ok hread))

theorem exec_eof {s : State} (h : 1 ≤ s.capacity) :
    exec .eof s = .next { holding eofWord s with idx := 1, ret := .bool true } := by
  have hskip := skipToNextFrame_holding s classify_eofWord
  exact (receiveWord_eq h).trans (answer_ok (congrArg (fun u => Except.ok (true, u)) hskip))

/-- Settles O15: each inbound row is a load of its word, then a byte read, a timestamp read, a skip or a
classification of it. -/
theorem inboundWordRowsComplete : Obligations.InboundWordRowsComplete := by
  intro b w s h
  exact ⟨exec_rxd b h, exec_tsw b h, exec_eof h, fun hwf => receiveWord_classify h (classTs_wf_iff.1 hwf).1,
    fun hwf => receiveWord_classify h (classEofw_wf_iff.1 hwf).1,
    fun hwf => receiveWord_classify h (classData_wf_iff.1 hwf).1⟩

/-! ### The rows dispatch selects -/

theorem exec_dispatch (f : Routed) (fn : Byte) (s : State) : exec (.dispatch f fn) s = outcome (dispatchFrame f fn s) :=
  rfl

/-- A success code runs the length check and the handler of its device type (R222). -/
theorem exec_dispatch_success {dt : DeviceType} {f : Routed} {fn : Byte} {r : Reader} {s : State}
    (hdt : f.ch.deviceType = dt) (hmem : fn.toNat ∈ successSet dt) (hr : handlerOf dt fn.toNat = r) :
    exec (.dispatch f fn) s = outcome (respond fn.toNat r f s) := by
  subst hdt hr
  rw [exec_dispatch, dispatchFrame, if_pos hmem]

/-- An exception code of the device type runs the exception path (R223). -/
theorem exec_dispatch_exception {dt : DeviceType} {f : Routed} {fn : Byte} {s : State}
    (hdt : f.ch.deviceType = dt) (hsucc : fn.toNat ∉ successSet dt) (hexc : fn.toNat ∈ exceptionSet dt) :
    exec (.dispatch f fn) s = outcome (respondException f s) := by
  subst hdt
  rw [exec_dispatch, dispatchFrame, if_neg hsucc, if_pos hexc]

/-- Settles O43: each code is in one set of its device type, and its row runs what the set's path runs. -/
theorem dispatchSelectsTheTableRow : Obligations.DispatchSelectsTheTableRow := by
  intro f s
  refine ⟨fun hfa => ?fa, fun hha => ?ha, fun hhm => ?hm⟩
  case fa =>
    refine ⟨?fa17, ?fa18, ?fa65, ?fa73, ?fa74, ?fa75, ?fa76, ?fa80, ?fa81, ?fa107, ?fa110, ?fa119, ?fa120, ?fa121,
      ?fa145, ?fa146, ?fa193, ?fa201, ?fa202, ?fa203, ?fa204, ?fa208, ?fa209, ?fa235, ?fa238, ?fa247, ?fa248, ?fa249⟩
    case fa17 | fa18 | fa65 | fa73 | fa74 | fa75 | fa76 | fa80 | fa81 | fa107 | fa110 | fa119 | fa120 | fa121 =>
      exact exec_dispatch_success hfa (by decide) rfl
    all_goals exact exec_dispatch_exception hfa (by decide) (by decide)
  case ha =>
    refine ⟨?ha17, ?ha18, ?ha65, ?ha66, ?ha67, ?ha80, ?ha81, ?ha107, ?ha110,
      ?ha145, ?ha146, ?ha193, ?ha194, ?ha195, ?ha208, ?ha209, ?ha235, ?ha238⟩
    case ha17 | ha18 | ha65 | ha66 | ha67 | ha80 | ha81 | ha107 | ha110 =>
      exact exec_dispatch_success hha (by decide) rfl
    all_goals exact exec_dispatch_exception hha (by decide) (by decide)
  case hm =>
    refine ⟨?hm17, ?hm18, ?hm65, ?hm107, ?hm119, ?hm120, ?hm121, ?hm122,
      ?hm145, ?hm146, ?hm193, ?hm235, ?hm247, ?hm248, ?hm249, ?hm250⟩
    case hm17 | hm18 | hm65 | hm107 | hm119 | hm120 | hm121 | hm122 =>
      exact exec_dispatch_success hhm (by decide) rfl
    all_goals exact exec_dispatch_exception hhm (by decide) (by decide)

end Sys2Proof.Machine

/-! The statements about the CRC unit (40_crc.md): its loop, its residue and the errors it detects, and its three
operations over words of the wire buffer. -/
namespace Sys2Proof.Machine

open Sys2Proof.Safety

/-! ### The loop -/

theorem crcShifts_eq_iterate (k : Nat) (c : Word) : crcShifts k c = crcShift^[k] c := by
  induction k generalizing c with
  | zero => rfl
  | succ k ih => exact ih (crcShift c)

theorem crc16_eq_foldl_iterate (bs : List Byte) :
    crc16 bs = bs.foldl (fun c b => crcShift^[8] (c ^^^ b.setWidth 16)) 0xFFFF#16 := by
  have hbyte : crcByte = fun c b => crcShift^[8] (c ^^^ b.setWidth 16) :=
    funext₂ fun c b => crcShifts_eq_iterate 8 (c ^^^ b.setWidth 16)
  rw [crc16, hbyte]

theorem crcShifts_inj {a b : Word} : crcShifts 8 a = crcShifts 8 b ↔ a = b :=
  ⟨crcShifts_injective, congrArg _⟩

theorem crcShifts_eq_zero_iff {c : Word} : crcShifts 8 c = 0#16 ↔ c = 0#16 := by
  have hzero : crcShifts 8 0#16 = 0#16 := by decide
  rw [← hzero, crcShifts_inj, hzero]

/-! ### The residue -/

/-- Two more bytes bring the CRC register to 0 exactly when they are its own two, low byte first: the first shifts the
register to its high byte, the second cancels that. -/
theorem crcByte_crcByte_eq_zero_iff {c : Word} {lo hi : Byte} :
    crcByte (crcByte c lo) hi = 0#16 ↔ hi ++ lo = c := by
  calc crcByte (crcByte c lo) hi = 0#16
      ↔ crcShifts 8 (c ^^^ lo.setWidth 16) = hi.setWidth 16 := by
        rw [crcByte, crcShifts_eq_zero_iff, BitVec.xor_eq_zero_iff, crcByte]
    _ ↔ c ^^^ lo.setWidth 16 = hi.setWidth 16 <<< 8 := by rw [← crcShifts_high hi, crcShifts_inj, crcShifts_high]
    _ ↔ hi ++ lo = c := by
        rw [word_split, eq_comm, ← BitVec.xor_right_inj (lo.setWidth 16), BitVec.xor_comm c, ← BitVec.xor_assoc,
          BitVec.xor_self, BitVec.zero_xor]

/-- Settles O22: behind `m` the two bytes start from the register `crc16 m`. -/
theorem crcResidueIsZero : Obligations.CrcResidueIsZero := by
  intro m lo hi
  rw [crc16_append]
  exact crcByte_crcByte_eq_zero_iff

/-! ### Changed bytes -/

/-- A replaced byte that leaves the CRC as it was is the byte that stood there: the register after it is the same, as
the bytes behind it carry different registers to different ones. -/
theorem getElem?_of_foldl_crcByte_set {l : List Byte} {i : Nat} {b : Byte} {c : Word} (hi : i < l.length)
    (h : (l.set i b).foldl crcByte c = l.foldl crcByte c) : l[i]? = some b := by
  induction l generalizing i c with
  | nil => exact absurd hi (Nat.not_lt_zero i)
  | cons x xs ih =>
    cases i with
    | zero => exact congrArg some (crcByte_injective_byte c (foldl_crcByte_injective h)).symm
    | succ i => exact ih (Nat.lt_of_succ_lt_succ hi) h

/-- Settles O23: a frame passes its check exactly when its residue is 0, and the changed frame has another residue. -/
theorem crcDetectsEveryByteError : Obligations.CrcDetectsEveryByteError := by
  intro m m' lo hi lo' hi' b i hcrc hlt hne hset hcrc'
  have hresidue : crc16 (m ++ [lo, hi]) = 0#16 := (crcResidueIsZero m lo hi).2 hcrc.symm
  have hresidue' : crc16 ((m ++ [lo, hi]).set i b) = 0#16 := hset ▸ (crcResidueIsZero m' lo' hi').2 hcrc'.symm
  exact hne (getElem?_of_foldl_crcByte_set (by simpa using hlt) (hresidue'.trans hresidue.symm))

/-! ### The CRC of a span -/

theorem exec_calculateCRC (start k : Nat) (s : State) :
    exec (.calculateCRC start k) s = answer Ret.word ((calculateCRC start k s).map fun c => (c, s)) := rfl

theorem calculateCRC_short {start k : Nat} {s : State} (h : s.len < start + k) :
    calculateCRC start k s = .error .bufferOverrun := if_pos h

/-- The only fault of a span is that it leaves the words that stand (R101). -/
theorem calculateCRC_cases (start k : Nat) (s : State) :
    (∃ c, calculateCRC start k s = .ok c) ∨ calculateCRC start k s = .error .bufferOverrun := by
  unfold calculateCRC
  split
  case isTrue => exact .inr rfl
  case isFalse =>
    split
    case h_1 => exact .inl ⟨_, rfl⟩
    case h_2 => exact .inr rfl

/-- Settles O21: the loop is `crc16_eq_foldl_iterate`, and a span answers by `calculateCRC_ok` or is too short. -/
theorem crcOperationsArePure : Obligations.CrcOperationsArePure := by
  refine ⟨fun bs s => ?loop, rfl, by decide, by decide, by decide +kernel, fun start ws s h hl => ?span,
    fun start k s h => ?short⟩
  case loop => exact congrArg (fun c => Host.Outcome.next { s with ret := .word c }) (crc16_eq_foldl_iterate bs)
  case span => rw [exec_calculateCRC, calculateCRC_ok h hl]; rfl
  case short => rw [exec_calculateCRC, calculateCRC_short h]; rfl

/-! ### Appending the CRC -/

theorem writeCRC_long {k : Nat} {s : State} (h : s.idx < k) : writeCRC k s = .error .crcSpanInvalid := if_pos h

/-- A span that holds a word that is no TX data word is refused (R102). -/
theorem writeCRC_not_txd {ws : List Word} {s : State} (hl : ws.length ≤ s.idx)
    (hs : AtIndex s (s.idx - ws.length) ws) (hw : ∃ w ∈ ws, isTxd w = false) :
    writeCRC ws.length s = .error .crcSpanInvalid := by
  have hall : ws.all isTxd = false := List.all_eq_false.2 (by simpa using hw)
  rw [writeCRC, if_neg (by omega), wordsAt_ok ws hs]
  simp [hall]

/-- Settles O24: over a span of TX data words the operation is one write of the two CRC bytes (`writeCRC_eq`). -/
theorem writeCrcAppendsTheCrc : Obligations.WriteCrcAppendsTheCrc := by
  intro s bs
  refine ⟨fun hl hs => ⟨fun hroom => ?room, fun hfull => ?full⟩, fun k h => outcome_error (writeCRC_long h),
    fun ws hl hs hw => ?notTxd⟩
  case room =>
    obtain ⟨t, ht, happ⟩ := outcome_putBytes_appends (List.cons_ne_nil ((crc16 bs).extractLsb' 0 8)
      [(crc16 bs).extractLsb' 8 8]) hroom
    exact ⟨t, (congrArg outcome (writeCRC_eq hl hs)).trans ht, happ⟩
  case full => exact outcome_error ((writeCRC_eq hl hs).trans (putWords_full _ (List.cons_ne_nil _ _) hfull))
  case notTxd =>
    obtain ⟨w, hmem, hne⟩ := hw
    exact outcome_error (writeCRC_not_txd hl hs ⟨w, hmem, beq_eq_false_iff_ne.2 hne⟩)

/-! ### Checking a frame's CRC -/

theorem wordAt_past {s : State} {i : Nat} (h : s.len ≤ i) : wordAt s i = none := if_neg (by omega)

/-- With fewer than `n` words from `fs` on, the last CRC byte is missing, whatever the span before it gives. -/
theorem checkFrameCRC_overrun {fs n : Nat} {s : State} (hn : 2 ≤ n) (h : s.len < fs + n) :
    checkFrameCRC fs n s = .error .bufferOverrun := by
  have hlast : wordAt s (fs + n - 1) = none := wordAt_past (by omega)
  rw [checkFrameCRC, if_neg (by omega)]
  rcases calculateCRC_cases fs (n - 2) s with ⟨c, hc⟩ | hc
  · simp [hc, hlast]
  · simp [hc]

/-- Settles O25: the check of a whole frame, of fewer than two words, and of a frame that leaves the buffer. -/
theorem frameCrcCheck : Obligations.FrameCrcCheck :=
  ⟨fun _ _ _ _ _ _ h hb => answer_ok (checkFrameCRC_ok h hb),
    fun s fs _ hn => ⟨_, _, answer_ok (checkFrameCRC_short hn fs s)⟩,
    fun _ _ _ hn h => answer_error (checkFrameCRC_overrun hn h)⟩

end Sys2Proof.Machine

/-! The statements about the wire buffer's basic operations (41_wirebuffer.md): `reset` and `load`, the byte accesses,
the ends of a frame and of the buffer, and the timestamp. -/
namespace Sys2Proof.Machine

open Sys2Proof.Safety

/-! ### The buffer as a whole -/

/-- Settles O16: the memory of `resetBuffer` is empty. -/
theorem resetEmptiesTheBuffer : Obligations.ResetEmptiesTheBuffer := fun s =>
  ⟨resetBuffer s, rfl, resetBuffer_idx s, resetBuffer_len s, Memory.read_nil, rfl⟩

/-- Settles O17: a load that fits leaves the memory `Memory.ofWords 0` of its words. -/
theorem loadSetsTheBuffer : Obligations.LoadSetsTheBuffer := fun ws _ =>
  ⟨fun hfits => ⟨_, congrArg outcome (loadBuffer_ok hfits), rfl, rfl, Memory.read_ofWords ws 0, rfl⟩,
    fun hlong => outcome_error (loadBuffer_full hlong)⟩

/-! ### Single bytes -/

/-- Settles O9: both writes append the one byte of the pattern (`beBytes_one`). -/
theorem byteWritesStoreOneWord : Obligations.ByteWritesStoreOneWord := by
  intro v s
  refine ⟨fun hroom => ?room, fun hfull => ?full⟩
  case room => and_intros <;> exact writeIntBE_appends (beBytes_one v) (Nat.succ_pos _) hroom
  case full => and_intros <;> exact outcome_error (writeIntBE_full (Nat.succ_pos _) (Nat.lt_succ_of_le hfull))

theorem be_one (b : Byte) : be [b] = b.toNat := by simp [be]

theorem getBytes_succ_none {k : Nat} {s : State} (h : wordAt s s.idx = none) :
    getBytes (k + 1) s = .error .bufferOverrun := by
  simp only [getBytes, getByte_none h]

theorem readUnsigned_error {k : Nat} {s : State} {f : Fault} (h : getBytes k s = .error f) :
    readUnsigned k s = .error f := by
  simp only [readUnsigned, h]

theorem readSigned_error {k : Nat} {s : State} {f : Fault} (h : getBytes k s = .error f) :
    readSigned k s = .error f := by
  simp only [readSigned, h]

/-- Settles O12: each read answers the pattern of its one byte, or the overrun of the missing word. -/
theorem byteReadsTakeOneWord : Obligations.ByteReadsTakeOneWord := by
  refine fun s => ⟨fun w hw => ⟨?u8, ?i8⟩, fun hnone => ⟨?u8None, ?i8None⟩⟩
  case u8 => exact answer_ok (readUnsigned_pattern hw (be_one (byteOf w)))
  case i8 => exact answer_ok (readSigned_pattern hw (be_one (byteOf w)))
  case u8None => exact answer_error (readUnsigned_error (getBytes_succ_none hnone))
  case i8None => exact answer_error (readSigned_error (getBytes_succ_none hnone))

/-! ### The ends of a frame and of the buffer -/

/-- Settles O18: `endOfBuffer` is the comparison itself. -/
theorem endOfBufferTellsTheCursor : Obligations.EndOfBufferTellsTheCursor := fun _ => rfl

theorem classAt_some {s : State} {i : Nat} {w : Word} (h : wordAt s i = some w) (c : WordClass) :
    classAt s i c = decide (classify w = c) := by
  simp only [classAt, h]

theorem classAt_none {s : State} {i : Nat} (h : wordAt s i = none) (c : WordClass) : classAt s i c = false := by
  simp only [classAt, h]

theorem exec_endOfFrame {s : State} {b : Bool} (h : classAt s s.idx .eofw = b) :
    exec .endOfFrame s = .next { s with ret := .bool b } := by
  subst h; rfl

/-- Settles O19: the class at the cursor decides `endOfFrame`, and `nextFrame_cases` says where the skip ends. -/
theorem frameBoundariesFollowTheEndOfFrameTag : Obligations.FrameBoundariesFollowTheEndOfFrameTag := by
  intro s
  refine ⟨fun w hw => exec_endOfFrame ?word, fun hnone => exec_endOfFrame (classAt_none hnone _),
    fun hle => ⟨skipToNextFrame s, rfl, rfl, nextFrame_cases s hle⟩⟩
  case word => rw [classAt_some (atCursor_cons hw).1]; exact decide_eq_decide.2 classify_eq_eofw_iff

/-! ### The timestamp -/

theorem le_cons (b : Byte) (bs : List Byte) : le (b :: bs) = b.toNat + 256 * le bs := by
  rw [le, be, List.reverse_cons, List.foldl_append, le, be, List.foldl_cons, List.foldl_nil]
  omega

/-- Digit `j` to the base 256 of a value read least significant byte first is its byte `j` (R8). -/
theorem le_digit (bs : List Byte) (j : Nat) : le bs / 256 ^ j % 256 = (bs.getD j 0#8).toNat := by
  induction bs generalizing j with
  | nil => simp [le, be]
  | cons b bs ih =>
    have hb := b.isLt
    cases j with
    | zero => rw [le_cons, pow_zero, Nat.div_one, List.getD_cons_zero]; omega
    | succ j =>
      have hdiv : (b.toNat + 256 * le bs) / 256 = le bs := by omega
      rw [le_cons, pow_succ', ← Nat.div_div_eq_div_mul, hdiv, List.getD_cons_succ, ih]

/-- Byte `j` of a timestamp is byte `j` of the words taken, and 0 where they are fewer (R45). The cut to 64 bits keeps
the digits below the eighth. -/
theorem extractLsb'_tsAt (s : State) (t : Nat) {j : Nat} (hj : j < 8) :
    (tsAt s t).extractLsb' (8 * j) 8 = (tsBytesAt s tsWords t).getD j 0#8 := by
  have hpow : (2 : Nat) ^ 64 = 256 ^ j * 256 ^ (8 - j) := by
    rw [← pow_add, Nat.add_sub_cancel' (by omega)]; rfl
  have hdvd : (2 : Nat) ^ 8 ∣ 256 ^ (8 - j) := dvd_pow_self 256 (by omega)
  have hbase : (2 : Nat) ^ (8 * j) = 256 ^ j := pow_mul 2 8 j
  apply BitVec.eq_of_toNat_eq
  rw [BitVec.extractLsb'_toNat, Nat.shiftRight_eq_div_pow, tsAt, BitVec.toNat_ofNat, hpow, hbase,
    Nat.mod_mul_right_div_self, Nat.mod_mod_of_dvd _ hdvd]
  exact le_digit _ j

/-- Settles O20: the words taken are those of `tsBytesAt`, and `tsAt` holds their bytes. -/
theorem readTimestampAssemblesTheBytes : Obligations.ReadTimestampAssemblesTheBytes := by
  intro s
  obtain ⟨htaken, hstop⟩ := tsBytesAt_spec s tsWords s.idx
  have hlen : (tsBytesAt s tsWords s.idx).length ≤ 8 := tsBytesAt_length_le s tsWords s.idx
  refine ⟨(tsBytesAt s tsWords s.idx).length, tsAt s s.idx, hlen, rfl, fun j hj => ?taken, hstop,
    fun j hj hj8 => ?missing⟩
  case taken =>
    obtain ⟨w, hw, hts, hbyte⟩ := htaken j hj
    refine ⟨w, hw, hts, ?_⟩
    rw [extractLsb'_tsAt s s.idx (by omega), List.getD_eq_getElem?_getD, hbyte, Option.getD_some]
  case missing => rw [extractLsb'_tsAt s s.idx hj8, List.getD_eq_default _ _ hj]

end Sys2Proof.Machine

/-! The statements about the request encoder (42_request_encoder.md): one request frame, the items the requests of the
catalogue queue, and the requests that name no channel. -/
namespace Sys2Proof.Machine

open Sys2Proof.Safety

/-! ### One frame -/

/-- Settles O26: `buildRequest` builds the frame or has no room for it (`buildRequest_cases`). -/
theorem encodeRequestBuildsTheFrame : Obligations.EncodeRequestBuildsTheFrame := by
  intro a f p s
  rcases buildRequest_cases a f p s with ⟨hroom, t, hbuild, hholds, hframe, -⟩ | ⟨hfull, hbuild⟩
  case inl =>
    refine ⟨fun _ => ⟨{ t with ret := .words (requestWords a f p) }, answer_ok hbuild, ?holds, rfl, ?frame⟩,
      fun hfull => absurd hroom (Nat.not_le.2 hfull)⟩
    case holds => exact ⟨hholds.cursor, hholds.length, hholds.memory⟩
    case frame => rw [hframe]
  case inr => exact ⟨fun hroom => absurd hroom (Nat.not_le.2 hfull), fun _ => answer_error hbuild⟩

/-! ### A change of a bus list -/

theorem changingBusList_free {op : Op} {s : State} (h : busListHeld op s = false) (r : Except Fault State) :
    changingBusList op s r = outcome r := if_neg (Bool.eq_false_iff.1 h)

theorem changingBusList_ok {op : Op} {s t : State} {r : Except Fault State} (h : busListHeld op s = false)
    (hr : r = .ok t) : changingBusList op s r = .next t :=
  (changingBusList_free h r).trans (congrArg outcome hr)

theorem changingBusList_error {op : Op} {s : State} {r : Except Fault State} {e : Fault}
    (h : busListHeld op s = false) (hr : r = .error e) : changingBusList op s r = .fault e :=
  (changingBusList_free h r).trans (outcome_error hr)

/-! ### The requests of the catalogue -/

/-- What every unicast request does on a free list, to a mapped address and with room (R161). -/
theorem unicast_queues {op : Op} {sub : Int} {a : Byte} {p : List Byte} {c : ILCMap} {s : State}
    (hc : lookup sub a s = .channel c) (hfree : busListHeld op s = false) (hroom : p.length + 4 ≤ s.capacity)
    (f : Byte) (expects : Bool) :
    ∃ t, unicast expects op sub a f p s = .next t ∧
      Queued s t op ⟨sub, a, f, false, expects, some c, requestWords a f p⟩ s.bcastCtr := by
  obtain ⟨t, happend, hqueued⟩ := appendUnicast_ok (expects := expects) (op := op) (f := f) hc hroom
  exact ⟨t, changingBusList_ok hfree happend, hqueued⟩

/-- What every broadcast request does on a free list, to a broadcast address and with room (R162, R163). -/
theorem broadcast_queues {op : Op} {sub : Int} {a : Byte} {p : List Byte} {s : State} (ha : a = 248#8 ∨ a = 249#8)
    (hfree : busListHeld op s = false)
    (hroom : (embedCounter s.params.bcastField p s.bcastCtr).length + 4 ≤ s.capacity) (f : Byte) :
    ∃ t, broadcast op sub a f p s = .next t ∧
      Queued s t op ⟨sub, a, f, true, false, none,
        requestWords a f (embedCounter s.params.bcastField p s.bcastCtr)⟩ (s.bcastCtr + 1#4) := by
  obtain ⟨t, happend, hqueued⟩ := appendBroadcast_ok (op := op) (sub := sub) (f := f) ha hroom
  exact ⟨t, changingBusList_ok hfree happend, hqueued⟩

theorem unicast_unmapped {op : Op} {sub : Int} {a : Byte} {s : State} (hfree : busListHeld op s = false)
    (hc : ∀ c, lookup sub a s ≠ .channel c) (expects : Bool) (f : Byte) (p : List Byte) :
    unicast expects op sub a f p s = .fault .unmappedRequest :=
  changingBusList_error hfree (appendUnicast_unmapped hc)

theorem broadcast_unmapped {op : Op} {a : Byte} {s : State} (hfree : busListHeld op s = false) (h248 : a ≠ 248#8)
    (h249 : a ≠ 249#8) (sub : Int) (f : Byte) (p : List Byte) :
    broadcast op sub a f p s = .fault .unmappedRequest :=
  changingBusList_error hfree (if_neg (not_or.2 ⟨h248, h249⟩))

/-- Settles O27: each form of the catalogue is one `unicast` with the function code of its rule. -/
theorem unicastRequestsQueueOneFrame : Obligations.UnicastRequestsQueueOneFrame := by
  intro op sub a p c s hc hfree hroom
  have queues := unicast_queues hc hfree hroom
  exact ⟨queues 17#8 true, queues 18#8 true, queues 65#8 true, queues 80#8 true, queues 81#8 true,
    queues 107#8 true, queues 110#8 true, queues 119#8 true, queues 120#8 true, queues 121#8 true,
    queues 73#8 true, queues 74#8 true, queues 66#8 true, queues 75#8 true, queues 75#8 true, queues 76#8 true,
    queues 67#8 true, queues 122#8 true, queues 119#8 true, queues 120#8 true, queues 121#8 true,
    queues s.params.fnNopLvdt s.params.nopLvdtExpects, fun f => queues f true⟩

/-- Settles O28: each form is one `broadcast` to its address with the function code of its parameter. -/
theorem broadcastsQueueOneFrameAndCount : Obligations.BroadcastsQueueOneFrameAndCount := by
  intro op sub f p s p' hfree hroom queued
  have to248 (g : Byte) : ∃ t, broadcast op sub 248#8 g p s = .next t ∧ queued t 248#8 g :=
    broadcast_queues (.inl rfl) hfree hroom g
  have to249 (g : Byte) : ∃ t, broadcast op sub 249#8 g p s = .next t ∧ queued t 249#8 g :=
    broadcast_queues (.inr rfl) hfree hroom g
  exact ⟨to249 s.params.fnStepMotorBcast, to248 s.params.fnForceDemandBcast, to248 s.params.fnFreezeEm,
    to248 s.params.fnFreezePneu, to248 f, to249 f⟩

/-- Settles O29: without a channel no form of the catalogue builds a frame, whatever its function code. -/
theorem unmappedRequestsFault : Obligations.UnmappedRequestsFault := by
  intro op sub a f p s hfree
  refine ⟨fun hc => ?unicast, fun h248 h249 => broadcast_unmapped hfree h248 h249 sub f p⟩
  case unicast => and_intros <;> exact unicast_unmapped hfree hc _ _ p

end Sys2Proof.Machine

/-! The statements about the address map's two look-ups (43_address_map.md): from a (subnet, address) to its channel,
and from a counter slot back to the actuator's id. -/
namespace Sys2Proof.Machine

/-! ### From a counter slot to the actuator's id -/

theorem exec_actuatorIdOf (dt : DeviceType) (i : Int) (s : State) :
    exec (.actuatorIdOf dt i) s = .next { s with ret := .int (actuatorIdOf dt i s) } := rfl

/-- The value is the id of an entry with that device type and index, or -1 and the map has none (R195). -/
theorem actuatorIdOf_cases (dt : DeviceType) (i : Int) (s : State) :
    (∃ q ∈ s.ilcMap, q.2.deviceType = dt ∧ q.2.dataIndex = i ∧ actuatorIdOf dt i s = q.2.actuatorId) ∨
      ((∀ q ∈ s.ilcMap, ¬(q.2.deviceType = dt ∧ q.2.dataIndex = i)) ∧ actuatorIdOf dt i s = -1) := by
  cases hfind : s.ilcMap.find? fun p => decide (p.2.deviceType = dt) && decide (p.2.dataIndex = i) with
  | some q =>
    obtain ⟨hdt, hi⟩ : q.2.deviceType = dt ∧ q.2.dataIndex = i := by simpa using List.find?_some hfind
    exact .inl ⟨q, List.mem_of_find?_eq_some hfind, hdt, hi, by simp only [actuatorIdOf, hfind]⟩
  | none =>
    exact .inr ⟨by simpa using List.find?_eq_none.1 hfind, by simp only [actuatorIdOf, hfind]⟩

/-- Settles O32: the entry `actuatorIdOf_cases` finds has the id of every other entry of its slot. -/
theorem actuatorIdOfFindsTheChannel : Obligations.ActuatorIdOfFindsTheChannel := by
  intro dt i s
  rw [exec_actuatorIdOf]
  rcases actuatorIdOf_cases dt i s with ⟨q, hq, hdt, hi, hval⟩ | ⟨hnone, hval⟩ <;> rw [hval]
  case inl =>
    exact ⟨fun p _ _ _ hagree => by rw [hagree q hq hdt hi], fun hnone => absurd ⟨hdt, hi⟩ (hnone q hq)⟩
  case inr => exact ⟨fun p hp hdt hi _ => absurd ⟨hdt, hi⟩ (hnone p hp), fun _ => rfl⟩

/-! ### From a (subnet, address) to its channel -/

theorem exec_lookup (sub : Int) (a : Byte) (s : State) :
    exec (.lookup sub a) s = .next { s with ret := .found (lookup sub a s) } := rfl

theorem lookup_outside {sub : Int} (h : sub < 1 ∨ 5 < sub) (a : Byte) (s : State) :
    lookup sub a s = .unknownSubnet := if_pos h

theorem lookup_mapped {sub : Int} {a : Byte} {c : ILCMap} {s : State} (h : ¬(sub < 1 ∨ 5 < sub))
    (hkey : keyGet s.ilcMap (mapKey sub a) = some c) : lookup sub a s = .channel c := by
  rw [lookup, if_neg h, hkey]

theorem lookup_unmapped {sub : Int} {a : Byte} {s : State} (h : ¬(sub < 1 ∨ 5 < sub))
    (hkey : keyGet s.ilcMap (mapKey sub a) = none) : lookup sub a s = .invalid := by
  rw [lookup, if_neg h, hkey]

/-- Settles O31: the statement's index is `mapKey`, and its three results are those of `lookup`. -/
theorem lookupReadsTheMap : Obligations.LookupReadsTheMap := by
  intro sub a s
  rw [exec_lookup, ← mapKey]
  split
  case isTrue houtside => rw [lookup_outside houtside]
  case isFalse hinside =>
    split
    case h_1 c hkey => rw [lookup_mapped hinside hkey]
    case h_2 hkey => rw [lookup_unmapped hinside hkey]

end Sys2Proof.Machine

/-! The statements about the response validator (44_response_decoder.md): the exception path, a dispatch, the frames
decodeFrame discards, the frames it routes, and the decoding of a whole buffer. -/
namespace Sys2Proof.Machine

open Sys2Proof.Safety

/-! ### The exception path -/

/-- The one byte of an exception response is read and classified (R223). -/
theorem respondException_byte {f : Routed} {w : Word} {s : State} (hk : f.k = 1) (h : AtCursor s [w]) :
    respondException f s =
      .ok { warned s (exceptionKind (byteOf w)) f.ch.actuatorId with idx := s.idx + 1 } := by
  rw [respondException, if_pos hk, getByte_ok (atCursor_cons h).1]; rfl

theorem respondException_length {f : Routed} {s : State} (hk : f.k ≠ 1) :
    respondException f s = .ok (warned s .invalidLength f.ch.actuatorId) := if_neg hk

/-- Settles O42: each exception row is `respondException`. -/
theorem exceptionResponsesRaiseOneWarning : Obligations.ExceptionResponsesRaiseOneWarning := by
  intro f s
  refine ⟨fun w hk hat => ?byte, fun hk => ?length⟩
  case byte => and_intros <;> exact congrArg outcome (respondException_byte hk hat)
  case length => and_intros <;> exact congrArg outcome (respondException_length hk)

/-! ### A dispatch -/

theorem exec_dispatch_unknown {f : Routed} {fn : Byte} {s : State} (hsucc : fn.toNat ∉ successSet f.ch.deviceType)
    (hexc : fn.toNat ∉ exceptionSet f.ch.deviceType) :
    exec (.dispatch f fn) s = .next (warned s .unknownFunction f.ch.actuatorId) := by
  rw [exec_dispatch, dispatchFrame, if_neg hsucc, if_neg hexc]; rfl

theorem respond_length {fn : Nat} {r : Reader} {f : Routed} {s : State} (hk : f.k ≠ respLen s.params fn f.addr) :
    respond fn r f s = .ok (warned s .invalidLength f.ch.actuatorId) := if_neg hk

/-- Settles O44: the payload's words stand at the cursor, so the dispatch answers (`dispatchFrame_answers`). -/
theorem dispatchCompletes : Obligations.DispatchCompletes := by
  intro f fn s
  refine ⟨fun hb hroom => ?completes, exec_dispatch_unknown, fun hsucc hk => ?length⟩
  case completes =>
    obtain ⟨ws, hlen, hat⟩ := bufferOk_atIndex hb s.idx f.k hroom
    obtain ⟨t, ht, hd⟩ := dispatchFrame_answers f fn hat hlen
    obtain ⟨hge, hle⟩ := hd.cursor
    refine ⟨t, congrArg outcome ht, hge, hle, ?_⟩
    rw [hd.frame]
    and_intros <;> rfl
  case length =>
    rw [exec_dispatch_success rfl hsucc rfl, respond_length hk]; rfl

/-! ### One frame in a well-formed buffer -/

theorem exec_decodeFrame (sub : Int) (s : State) : exec (.decodeFrame sub) s = outcome (decodeOneFrame sub s) := rfl

/-- Settles O45 by `decodeOneFrame_answers`: the frame's words before its tail hold no end-of-frame word. -/
theorem decodeFrameEndsAtTheNextFrame : Obligations.DecodeFrameEndsAtTheNextFrame := by
  intro sub s hb
  obtain ⟨t, ht, hd, hidx⟩ := decodeOneFrame_answers sub hb
  obtain ⟨new, hout, hwarn, -⟩ := hd.reports
  obtain ⟨-, -, hmove⟩ := nextFrame_bounds s hb.cursor
  refine ⟨t, new, congrArg outcome ht, hidx, fun hlt => hidx ▸ hmove hlt, hd.buf, hd.len, hout, hwarn, ?_⟩
  rw [hd.frame]
  and_intros <;> rfl

/-! ### A frame without a tail -/

/-- `s` after the scan for the tail has found `n` data words at the cursor (R211). -/
def scanned (n : Nat) (s : State) : State := { s with fs := s.idx, tail := s.idx + n, n := n }

theorem locateTail_eq_scanned {s : State} {n : Nat} (hdata : ∀ j, j < n → classAt s (s.idx + j) .data = true)
    (hend : s.idx + n = s.len ∨ classAt s (s.idx + n) .eofw = true ∨ classAt s (s.idx + n) .ts = true) :
    locateTail s = scanned n s := locateTail_eq hdata hend

/-- With nothing but an end behind the `n` data words, or with fewer than four of them, the frame is discarded before
its CRC is looked at (R212, R213). -/
theorem decodeOneFrame_discards {sub : Int} {n : Nat} {s : State} (hloc : locateTail s = scanned n s)
    (hshort : s.len ≤ s.idx + n ∨ classAt s (s.idx + n) .eofw = true ∨ n < 4) :
    decodeOneFrame sub s = .ok (endWith .invalidLength (scanned n s)) := by
  rw [decodeOneFrame, hloc]
  dsimp only
  split
  case isTrue => rfl
  case isFalse hstop =>
    rw [Bool.or_eq_true, decide_eq_true_iff, not_or] at hstop
    exact if_pos ((hshort.resolve_left hstop.1).resolve_left hstop.2)

/-- With four data words and a tail below `len` that is no end of frame, the CRC decides whether the frame is routed
or discarded (R214 to R216). -/
theorem decodeOneFrame_checks {sub : Int} {n : Nat} {ok : Bool} {s u v : State} (hloc : locateTail s = scanned n s)
    (hlt : s.idx + n < s.len) (heof : classAt s (s.idx + n) .eofw = false) (h4 : 4 ≤ n)
    (hcrc : checkFrameCRC s.idx n (scanned n s) = .ok (ok, u)) (hv : { u with ts := tsAt u u.tail } = v) :
    decodeOneFrame sub s =
      if v.crcCalc = v.crcRx then routeFrame sub v
      else .ok (skipToNextFrame (decrementUnverified sub (raise .invalidCRC (-1) v))) := by
  subst hv
  have hstop : (decide ((scanned n s).len ≤ (scanned n s).tail) ||
      classAt (scanned n s) (scanned n s).tail .eofw) = false :=
    Bool.or_eq_false_iff.2 ⟨decide_eq_false (Nat.not_le.2 hlt), heof⟩
  have hlong : ¬(scanned n s).n < 4 := Nat.not_lt.2 h4
  have hcheck : checkFrameCRC (scanned n s).fs (scanned n s).n (scanned n s) = .ok (ok, u) := hcrc
  rw [decodeOneFrame, hloc]
  dsimp only
  rw [hstop, if_neg Bool.false_ne_true, if_neg hlong, hcheck]

/-- Settles O46: the scan stops behind the `n` data words. -/
theorem framesWithoutATailRaiseInvalidLength : Obligations.FramesWithoutATailRaiseInvalidLength := by
  intro sub n s hdata hend
  refine congrArg outcome (decodeOneFrame_discards (locateTail_eq_scanned hdata ?stop) ?short)
  case stop => exact hend.imp_right (Or.imp_right And.right)
  case short => exact hend.imp Eq.ge (Or.imp_right And.left)

/-! ### The decrement of a channel -/

theorem decrementExpected_eq (c : ILCMap) (s : State) : decrementExpected c s = countedDown c s := bumpExpected_down c s

@[simp] theorem countedDown_n (c : ILCMap) (s : State) : (countedDown c s).n = s.n := by
  unfold countedDown; cases c.deviceType <;> rfl

@[simp] theorem countedDown_ts (c : ILCMap) (s : State) : (countedDown c s).ts = s.ts := by
  unfold countedDown; cases c.deviceType <;> rfl

@[simp] theorem countedDown_addr (c : ILCMap) (s : State) : (countedDown c s).addr = s.addr := by
  unfold countedDown; cases c.deviceType <;> rfl

@[simp] theorem countedDown_fn (c : ILCMap) (s : State) : (countedDown c s).fn = s.fn := by
  unfold countedDown; cases c.deviceType <;> rfl

/-! ### The alternative of 93_implementation_defined.md I2 -/

theorem decrementUnverified_off {s : State} (hoff : s.params.decrOnBadCrc = false) (sub : Int) :
    decrementUnverified sub s = s := if_neg (Bool.eq_false_iff.1 hoff)

theorem decrementUnverified_mapped {sub : Int} {w : Word} {c : ILCMap} {s : State}
    (hon : s.params.decrOnBadCrc = true) (hword : wordAt s s.fs = some w)
    (hc : lookup sub (byteOf w) s = .channel c) : decrementUnverified sub s = countedDown c s := by
  simp only [decrementUnverified, hon, if_true, hword, hc, decrementExpected_eq]

theorem decrementUnverified_unmapped {sub : Int} {w : Word} {s : State} (hword : wordAt s s.fs = some w)
    (hnone : ∀ c, lookup sub (byteOf w) s ≠ .channel c) : decrementUnverified sub s = s := by
  rw [decrementUnverified, hword]
  dsimp only
  split
  case isTrue =>
    split
    case h_1 c hc => exact absurd hc (hnone c)
    case h_2 => rfl
  case isFalse => rfl

/-! ### The route of a frame -/

/-- `s` after the address and function bytes at the cursor are read (R217). -/
def headed (a f : Byte) (s : State) : State := { s with idx := s.idx + 2, addr := a, fn := f }

theorem addressed_eq_headed (s : State) (a f : Byte) (p : List Byte) (lo hi : Byte) :
    addressed s a f p lo hi = headed a f (validated s a f p lo hi) := rfl

/-- The three routes behind the address and function bytes (R218 to R220). -/
theorem routeFrame_routes {sub : Int} {wa wf : Word} {s u : State} (h : AtCursor s [wa, wf])
    (hu : headed (byteOf wa) (byteOf wf) s = u) :
    (lookup sub u.addr u = .unknownSubnet → routeFrame sub s = .ok (endWith .unknownSubnet u)) ∧
    (lookup sub u.addr u = .invalid → routeFrame sub s = .ok (endWith .unknownAddress { u with ch := none })) ∧
    ∀ c t, lookup sub u.addr u = .channel c →
      dispatchFrame ⟨c, sub, u.addr, u.n - 4, u.ts⟩ u.fn (countedDown c { u with ch := some c }) = .ok t →
      routeFrame sub s = .ok (skipToNextFrame t) := by
  obtain ⟨hwa, hrest⟩ := atCursor_cons h
  have hwf := (atCursor_cons hrest).1
  subst hu
  rw [routeFrame, getByte_ok hwa]
  dsimp only
  rw [getByte_ok hwf]
  refine ⟨fun hl => ?subnet, fun hl => ?address, fun c t hl hd => ?channel⟩
  all_goals
    unfold headed at hl
    dsimp only at hl ⊢
    rw [hl]
  case subnet => rfl
  case address => rfl
  case channel =>
    unfold headed at hd
    simp only [decrementExpected_eq, countedDown_n, countedDown_ts, countedDown_addr, countedDown_fn]
    rw [hd]

/-! ### A frame with a timestamp -/

section
variable {s : State} {a f : Byte} {p : List Byte} {lo hi : Byte}

/-- The words of a frame, two of them ahead of the rest. -/
theorem frameHere_words (h : FrameHere s a f p lo hi) :
    ∃ ws, ws.map byteOf = (a :: f :: p) ++ [lo, hi] ∧ ws.length = p.length + 4 ∧ AtCursor s ws := by
  obtain ⟨ws, w, hbytes, -, -, hat⟩ := h
  exact ⟨ws, hbytes, by simpa using congrArg List.length hbytes, (atCursor_append hat).1⟩

theorem frameHere_address (h : FrameHere s a f p lo hi) :
    ∃ wa wf, byteOf wa = a ∧ byteOf wf = f ∧ AtCursor s [wa, wf] := by
  obtain ⟨ws, hbytes, -, hat⟩ := frameHere_words h
  obtain ⟨wa, ws, rfl, ha, hrest⟩ := List.map_eq_cons_iff.1 hbytes
  obtain ⟨wf, ws, rfl, hf, -⟩ := List.map_eq_cons_iff.1 hrest
  exact ⟨wa, wf, ha, hf, (atCursor_append (us := [wa, wf]) hat).1⟩

theorem frameHere_data (h : FrameHere s a f p lo hi) :
    ∀ j, j < p.length + 4 → classAt s (s.idx + j) .data = true := by
  obtain ⟨ws, w, hbytes, hdata, -, hat⟩ := h
  have hlen : ws.length = p.length + 4 := by simpa using congrArg List.length hbytes
  intro j hj
  rw [← hlen] at hj
  have hword := (atCursor_append hat).1 j hj
  rw [List.getElem?_eq_getElem hj] at hword
  rw [classAt_some hword, hdata _ (List.getElem_mem hj), decide_eq_true rfl]

theorem frameHere_ts (h : FrameHere s a f p lo hi) : classAt s (s.idx + (p.length + 4)) .ts = true := by
  obtain ⟨ws, w, hbytes, -, hts, hat⟩ := h
  have hlen : ws.length = p.length + 4 := by simpa using congrArg List.length hbytes
  have hword : wordAt s (s.idx + ws.length) = some w := (atCursor_cons (atCursor_append hat).2).1
  rw [← hlen, classAt_some hword, hts, decide_eq_true rfl]

/-- The frame passes the checks of its tail and length, so its CRC decides what becomes of it (R211 to R216). -/
theorem decodeOneFrame_frame (sub : Int) (h : FrameHere s a f p lo hi) :
    decodeOneFrame sub s =
      if crc16 (a :: f :: p) = hi ++ lo then routeFrame sub (validated s a f p lo hi)
      else .ok (skipToNextFrame (decrementUnverified sub (warned (validated s a f p lo hi) .invalidCRC (-1)))) := by
  have hts := frameHere_ts h
  obtain ⟨ws, hbytes, hlen, hat⟩ := frameHere_words h
  have hloc := locateTail_eq_scanned (frameHere_data h) (.inr (.inr hts))
  have hcrc := checkFrameCRC_ok (s := scanned (p.length + 4) s) hat hbytes
  rw [hlen] at hcrc
  exact decodeOneFrame_checks hloc (classAt_lt hts) (classAt_other hts (by decide)) (Nat.le_add_left 4 _) hcrc rfl

/-- A frame whose CRC is good is routed by its first two bytes (R217). -/
theorem decodeOneFrame_routes (sub : Int) (h : FrameHere s a f p lo hi) (hgood : crc16 (a :: f :: p) = hi ++ lo) :
    (lookup sub a s = .unknownSubnet →
      decodeOneFrame sub s = .ok (endWith .unknownSubnet (addressed s a f p lo hi))) ∧
    (lookup sub a s = .invalid →
      decodeOneFrame sub s = .ok (endWith .unknownAddress { addressed s a f p lo hi with ch := none })) ∧
    ∀ c t, lookup sub a s = .channel c →
      dispatchFrame ⟨c, sub, a, p.length, tsAt s (s.idx + (p.length + 4))⟩ f
        (countedDown c { addressed s a f p lo hi with ch := some c }) = .ok t →
      decodeOneFrame sub s = .ok (skipToNextFrame t) := by
  obtain ⟨wa, wf, rfl, rfl, hat⟩ := frameHere_address h
  rw [decodeOneFrame_frame sub h, if_pos hgood]
  exact routeFrame_routes (s := validated s (byteOf wa) (byteOf wf) p lo hi) hat (addressed_eq_headed ..).symm

end

/-- Settles O47: with the alternative of I2 off, nothing is decremented. -/
theorem badCrcDiscardsTheFrame : Obligations.BadCrcDiscardsTheFrame := by
  intro sub a f p lo hi s h hbad hoff
  have hkeep := decrementUnverified_off (s := warned (validated s a f p lo hi) .invalidCRC (-1)) hoff sub
  rw [exec_decodeFrame, decodeOneFrame_frame sub h, if_neg hbad, hkeep]; rfl

/-- Settles O48: the byte at the frame start is the unverified address, and its channel is counted down if it has
one. -/
theorem badCrcMayDecrementItsAddress : Obligations.BadCrcMayDecrementItsAddress := by
  intro sub a f p lo hi s h hbad hon t
  obtain ⟨wa, wf, rfl, -, hat⟩ := frameHere_address h
  have hword : wordAt t t.fs = some wa := (atCursor_cons hat).1
  rw [exec_decodeFrame, decodeOneFrame_frame sub h, if_neg hbad]
  refine ⟨fun c hc => ?mapped, fun hnone => ?unmapped⟩
  case mapped => rw [decrementUnverified_mapped (s := t) hon hword hc]; rfl
  case unmapped => rw [decrementUnverified_unmapped (s := t) hword hnone]; rfl

/-- Settles O49: the route of an address without an entry. -/
theorem unknownAddressIsReported : Obligations.UnknownAddressIsReported := by
  intro sub a f p lo hi s h hgood hl
  obtain ⟨-, haddress, -⟩ := decodeOneFrame_routes sub h hgood
  exact congrArg outcome (haddress hl)

/-- Settles O50: the route of a subnet the look-up does not know. -/
theorem unknownSubnetIsReported : Obligations.UnknownSubnetIsReported := by
  intro sub a f p lo hi s h hgood hsub
  obtain ⟨hsubnet, -, -⟩ := decodeOneFrame_routes sub h hgood
  exact congrArg outcome (hsubnet (lookup_outside hsub a s))

/-- Settles O51: the route of a channel is the dispatch of `s2`. -/
theorem routedFrameDecrementsThenDispatches : Obligations.RoutedFrameDecrementsThenDispatches := by
  intro sub a f p lo hi c s h hgood hl s1 s2 t hd
  obtain ⟨-, -, hchannel⟩ := decodeOneFrame_routes sub h hgood
  exact congrArg outcome (hchannel c t hl (ok_of_outcome hd))

/-! ### A whole buffer -/

/-- With no words the loop makes no turn. -/
theorem decodeWholeBuffer_nil (sub : Int) (s : State) :
    decodeWholeBuffer sub [] s = .ok { s with buf := [], len := 0, idx := 0 } := by
  rw [decodeWholeBuffer, loadBuffer_ok (Nat.zero_le _)]; rfl

theorem decodeWholeBuffer_full {sub : Int} {ws : List Word} {s : State} (h : s.capacity < ws.length) :
    decodeWholeBuffer sub ws s = .error .bufferOverflow := by
  rw [decodeWholeBuffer, loadBuffer_full h]

/-- Settles O52: the loop answers and is a number of frames (`decodeWholeBuffer_answers`), and none of them changes the
words. -/
theorem decodeBufferUsesTheWholeBuffer : Obligations.DecodeBufferUsesTheWholeBuffer := by
  intro sub ws s
  refine ⟨fun hfits => ?fits, fun hlong => outcome_error (decodeWholeBuffer_full hlong)⟩
  case fits =>
    obtain ⟨t, w, ht, hidx, hd, k, hk⟩ := decodeWholeBuffer_answers sub hfits
    have hholds : HoldsExactly t ws :=
      ⟨hidx, hd.len, fun a => by rw [hd.buf]; exact Memory.read_ofWords ws 0 a⟩
    have hempty : ws = [] → t = { s with buf := t.buf, idx := t.idx, len := t.len } := by
      rintro rfl
      cases (decodeWholeBuffer_nil sub s).symm.trans ht
      rfl
    refine ⟨_, t, k, congrArg outcome (loadBuffer_ok hfits), hk, congrArg outcome ht, hholds, ?_⟩
    rw [hd.frame] at hempty ⊢
    exact ⟨rfl, rfl, rfl, rfl, rfl, rfl, rfl, rfl, rfl, hempty⟩

end Sys2Proof.Machine

/-! The statements about the response handlers (45_response_handlers.md): the records the rows deliver, the checks made
before a record, and the comparisons the checks rest on. -/
namespace Sys2Proof.Machine

open Sys2Proof.Safety

/-! ### A row with the length its table gives -/

/-- The length check passes, and the record is emitted behind whatever the handler did (R222, R250, R296). -/
theorem outcome_respond {fn : Nat} {r : Reader} {f : Routed} {fields : Fields} {s t : State}
    (hk : f.k = respLen s.params fn f.addr) (hr : r f s = .ok (fields, t)) :
    outcome (respond fn r f s) = .next { t with out := t.out ++ [record f (BitVec.ofNat 8 fn) fields] } := by
  rw [respond, if_pos hk, hr]; rfl

theorem outcome_respond_length {fn : Nat} {r : Reader} {f : Routed} {s : State}
    (hk : f.k ≠ respLen s.params fn f.addr) :
    outcome (respond fn r f s) = .next (warned s .invalidLength f.ch.actuatorId) :=
  congrArg outcome (respond_length hk)

/-- A handler with no check delivers its record (R250). -/
theorem outcome_respond_delivered {fn : Nat} {r : Reader} {f : Routed} {fields : Fields} {s : State}
    (hr : r f s = .ok (fields, { s with idx := s.idx + f.k })) (hk : f.k = respLen s.params fn f.addr) :
    outcome (respond fn r f s) = .next (delivered s f (BitVec.ofNat 8 fn) fields) :=
  outcome_respond hk hr

/-! ### Raw bytes -/

section
variable {f : Routed} {ws : List Word} {s : State}

theorem respond_readRaw (fn : Nat) (h : AtCursor s ws) (hl : ws.length = f.k)
    (hk : f.k = respLen s.params fn f.addr) :
    outcome (respond fn readRaw f s) = .next (delivered s f (BitVec.ofNat 8 fn) (.raw (ws.map byteOf))) :=
  outcome_respond_delivered (readRaw_ok ws h hl) hk

theorem respond_readServerID (h : AtCursor s ws) (hl : ws.length = f.k) (hk : f.k = s.params.len17) :
    outcome (respond 17 readServerID f s) = .next (delivered s f 17#8 (.serverID (ws.map byteOf))) :=
  outcome_respond_delivered (readServerID_ok ws h hl) hk

end

/-- Settles O34: ten rows are `readRaw` and three `readServerID`, each under its function code's length. -/
theorem rawResponsesDeliverTheirBytes : Obligations.RawResponsesDeliverTheirBytes := by
  intro f ws s hat hlen
  have raw (fn : Nat) := respond_readRaw fn hat hlen
  have serverID := respond_readServerID hat hlen
  exact ⟨raw 73, raw 80, raw 81, raw 107, raw 120, raw 80, raw 81, raw 107, raw 107, raw 120,
    serverID, serverID, serverID⟩

/-! ### Unsigned integers -/

section
variable {f : Routed} {ws : List Word} {s : State}

/-- A state of `n` bytes, one or two, and then status and faults of two bytes each (R255, U19). -/
theorem readServerStatus_fields {n : Nat} (h : AtCursor s ws) (hl : ws.length = f.k) (hn : f.k = n + 4)
    (h12 : n = 2 ∨ n = 1) :
    readServerStatus f s = .ok (.serverStatus (be ((ws.map byteOf).take n)) (be (((ws.map byteOf).drop n).take 2))
      (be ((ws.map byteOf).drop (n + 2))), { s with idx := s.idx + f.k }) := by
  have hsplit : ws.take n ++ ws.drop n = ws := List.take_append_drop n ws
  have hstate : (ws.take n).length = n := by rw [List.length_take]; omega
  have hrest : (ws.drop n).length = 4 := by rw [List.length_drop]; omega
  match hd : ws.drop n, hrest with
  | [a, b, c, d], _ =>
    rw [hd] at hsplit
    rw [readServerStatus_ok (ws.take n) (hsplit.symm ▸ h) (by omega) (by omega), ← List.drop_drop, ← List.map_drop, hd,
      ← List.map_take]
    rfl

/-- The length of ReportServerStatus chooses between its two layouts and the raw bytes (log 21). -/
theorem respond_readServerStatus {n : Nat} (h : AtCursor s ws) (hl : ws.length = f.k) (h12 : n = 2 ∨ n = 1)
    (hn : (ws.map byteOf).length = n + 4) (hk : f.k = s.params.len18) :
    outcome (respond 18 readServerStatus f s) = .next (delivered s f 18#8
      (.serverStatus (be ((ws.map byteOf).take n)) (be (((ws.map byteOf).drop n).take 2))
        (be ((ws.map byteOf).drop (n + 2))))) := by
  rw [List.length_map, hl] at hn
  exact outcome_respond_delivered (readServerStatus_fields h hl hn h12) hk

theorem respond_readServerStatus_raw (h : AtCursor s ws) (hl : ws.length = f.k)
    (h5 : (ws.map byteOf).length ≠ 5) (h6 : (ws.map byteOf).length ≠ 6) (hk : f.k = s.params.len18) :
    outcome (respond 18 readServerStatus f s) = .next (delivered s f 18#8 (.raw (ws.map byteOf))) := by
  rw [List.length_map, hl] at h5 h6
  have hraw : readServerStatus f s = readRaw f s := if_neg (not_or.2 ⟨h6, h5⟩)
  exact outcome_respond_delivered (hraw.trans (readRaw_ok ws h hl)) hk

theorem respond_readMode (h : AtCursor s ws) (hl : ws.length = f.k) (hk : f.k = s.params.len65) :
    outcome (respond 65 readMode f s) = .next (delivered s f 65#8 (.mode (be (ws.map byteOf)))) :=
  outcome_respond_delivered (readMode_ok ws h hl) hk

theorem respond_readStatusBits (h : AtCursor s ws) (hl : ws.length = f.k) (hk : f.k = s.params.len121) :
    outcome (respond 121 readStatusBits f s) = .next (delivered s f 121#8 (.statusBits (be (ws.map byteOf)))) :=
  outcome_respond_delivered (readStatusBits_ok ws h hl) hk

end

/-- Settles O35: the rows of one function code are the same handler for each device type. -/
theorem integerResponsesDeliverTheirFields : Obligations.IntegerResponsesDeliverTheirFields := by
  intro f ws s hat hlen bs
  have six := respond_readServerStatus (n := 2) hat hlen (.inl rfl)
  have five := respond_readServerStatus (n := 1) hat hlen (.inr rfl)
  have other := respond_readServerStatus_raw hat hlen
  have mode := respond_readMode hat hlen
  have bits := respond_readStatusBits hat hlen
  exact ⟨six, six, six, five, five, five, other, other, other, mode, mode, mode, bits, bits⟩

/-! ### Floats -/

/-- The two floats of eight words are those of their halves. -/
theorem floatsOf_two {o : FloatOrder} {ws : List Word} {g0 g1 : F32} (hl : ws.length = 8)
    (hg : floatsOf o (ws.map byteOf) 2 = [g0, g1]) :
    ∃ a b c d a' b' c' d', ws = [a, b, c, d, a', b', c', d'] ∧
      floatOf o [byteOf a, byteOf b, byteOf c, byteOf d] = g0 ∧
      floatOf o [byteOf a', byteOf b', byteOf c', byteOf d'] = g1 := by
  match ws, hl with
  | [a, b, c, d, a', b', c', d'], _ =>
    obtain ⟨hg0, hrest⟩ := List.cons.inj hg
    exact ⟨a, b, c, d, a', b', c', d', rfl, hg0, (List.cons.inj hrest).1⟩

section
variable {f : Routed} {ws : List Word} {s : State} {g0 g1 : F32}

theorem respond_readGains (h : AtCursor s ws) (hl : ws.length = f.k) (hk : f.k = 8)
    (hg : floatsOf s.params.floatOrder (ws.map byteOf) 2 = [g0, g1]) :
    outcome (respond 74 readGains f s) = .next (delivered s f 74#8 (.gains g0 g1)) := by
  obtain ⟨a, b, c, d, a', b', c', d', rfl, rfl, rfl⟩ := floatsOf_two (hl.trans hk) hg
  exact outcome_respond_delivered (hk ▸ readGains_ok h) hk

theorem respond_readLvdt (h : AtCursor s ws) (hl : ws.length = f.k) (hk : f.k = 8)
    (hg : floatsOf s.params.floatOrder (ws.map byteOf) 2 = [g0, g1]) :
    outcome (respond 122 readLvdt f s) = .next (delivered s f 122#8 (.lvdt g0 g1)) := by
  obtain ⟨a, b, c, d, a', b', c', d', rfl, rfl, rfl⟩ := floatsOf_two (hl.trans hk) hg
  exact outcome_respond_delivered (hk ▸ readLvdt_ok h) hk

theorem respond_readCalibration (h : AtCursor s ws) (hl : ws.length = f.k) (hk : f.k = 96) :
    outcome (respond 110 readCalibration f s) =
      .next (delivered s f 110#8 (.calibration (floatsOf s.params.floatOrder (ws.map byteOf) 24))) :=
  outcome_respond_delivered (hk ▸ readCalibration_ok ws h (hl.trans hk)) hk

theorem respond_readPressure (h : AtCursor s ws) (hl : ws.length = f.k) (hk : f.k = 16) :
    outcome (respond 119 readPressure f s) =
      .next (delivered s f 119#8 (.pressure (floatsOf s.params.floatOrder (ws.map byteOf) 4))) :=
  outcome_respond_delivered (hk ▸ readPressure_ok ws h (hl.trans hk)) hk

end

/-- Settles O36: each row reads its floats, or its length check refuses the frame. -/
theorem floatResponsesDeliverTheirFloats : Obligations.FloatResponsesDeliverTheirFloats := by
  intro f ws s hat hlen floats
  refine ⟨fun hk g0 g1 hg => ?two, fun hk => ?calibration, respond_readPressure hat hlen, fun hk => ?notTwo,
    fun hk => ?notCalibration, fun hk => outcome_respond_length hk⟩
  case two => exact ⟨respond_readGains hat hlen hk hg, respond_readLvdt hat hlen hk hg⟩
  case calibration => exact ⟨respond_readCalibration hat hlen hk, respond_readCalibration hat hlen hk⟩
  case notTwo | notCalibration => exact ⟨outcome_respond_length hk, outcome_respond_length hk⟩

/-! ### The checks of the hardpoints -/

/-- Check (d) adds its report: the band of each family, and 0 where the check is skipped (R295). -/
theorem checkAirPressure_eq (ch : ILCMap) (p : F32) (s : State) :
    checkAirPressure ch p s =
      let band (lo hi : Ratio) : Int := if floatBelow p lo then -1 else if floatAbove p hi then 1 else 0
      s.emit (.hardpointActuatorAirPressure ch.dataIndex (match stateFamily s with
        | .raising => band s.params.airpLoRaising s.params.airpHiRaising
        | .active => band s.params.airpLoActive s.params.airpHiActive
        | .lowering => band s.params.airpLoLowering s.params.airpHiLowering
        | .other => 0)) := by
  unfold checkAirPressure airThresholds
  cases stateFamily s <;> rfl

/-- Settles O37: the handler is the read of four floats with check (d) behind it. -/
theorem hmPressureIsDeliveredAndChecked : Obligations.HmPressureIsDeliveredAndChecked := by
  intro f ws s hat hlen hk ps band r
  have hread := readPressureChecked_ok (f := f) ws hat hlen
  rw [checkAirPressure_eq] at hread
  refine (outcome_respond hk hread).trans ?_
  simp only [State.emit, List.append_assoc]
  rfl

/-- Check (c) adds its two reports (R294). -/
theorem checkLoadCell_eq (ch : ILCMap) (force : F32) (s : State) :
    checkLoadCell ch force s =
      let outside (lo hi : Ratio) : Bool := floatAbove force hi || floatBelow force lo
      { s with out := s.out ++
        [.hardpointActuatorLoadCellError ch.actuatorId (outside s.params.lcLo s.params.lcHi),
          .hardpointActuatorMeasuredForce ch.actuatorId
            (if stateFamily s = .active then
              (if s.env.forceBalance then outside s.params.lcFbLo s.params.lcFbHi
                else outside s.params.lcActiveLo s.params.lcActiveHi)
            else false)] } := by
  simp only [checkLoadCell, State.emit, List.append_assoc, List.cons_append, List.nil_append]

/-- Settles O38: both rows read and invert alike, with check (c) behind the read. -/
theorem electromechanicalResponsesInvertAndCheck : Obligations.ElectromechanicalResponsesInvertAndCheck := by
  intro f w0 w1 w2 w3 w4 w5 w6 w7 w8 s hat hk encoder force outside band after
  have hread := readElectromechanical_ok (f := f) hat
  dsimp only at hread
  rw [checkLoadCell_eq] at hread
  have both (fn : Nat) (hfn : respLen s.params fn f.addr = 9) :
      outcome (respond fn readElectromechanical f s) = .next (after (BitVec.ofNat 8 fn)) := by
    refine (outcome_respond (hk.trans hfn.symm) hread).trans ?_
    simp only [List.append_assoc]
    rfl
  exact ⟨both 66 rfl, both 67 rfl⟩

/-! ### The checks of the force actuators -/

/-- Settles O39: both rows are `readForces`, and the address decides between its two lengths (R196). -/
theorem forceResponsesConvertAndCheck : Obligations.ForceResponsesConvertAndCheck := by
  intro f w0 w1 w2 w3 w4 s primary single
  refine ⟨fun hat haddr hk => ?single, fun w5 w6 w7 w8 hat haddr hk => ?dual⟩
  case single =>
    have hlen : f.k = if singleAxis f.addr then 5 else 9 := by rw [singleAxis, decide_eq_true haddr]; exact hk
    exact ⟨outcome_respond (fn := 75) hlen (readForces_single hat haddr),
      outcome_respond (fn := 76) hlen (readForces_single hat haddr)⟩
  case dual =>
    have hlen : f.k = if singleAxis f.addr then 5 else 9 := by
      rw [singleAxis, decide_eq_false (Nat.not_le.2 haddr)]; exact hk
    exact ⟨outcome_respond (fn := 75) hlen (readForces_dual hat haddr),
      outcome_respond (fn := 76) hlen (readForces_dual hat haddr)⟩

/-- The flags of the axes present are the test's, the others are kept (R290, R292). -/
theorem newFlags_eq (old : AxisFlags) (test : Axis → F32 → Bool) (p : F32) (q : Option F32) :
    newFlags old test p q = ⟨test .primary p, (q.map (test .secondary)).getD old.secondary⟩ := by
  cases q <;> rfl

theorem setFlagsAt_newFlags (l : List AxisFlags) (i : Nat) (h : i < l.length) (test : Axis → F32 → Bool) (p : F32)
    (q : Option F32) :
    setFlagsAt l i (newFlags (flagsAt l i) test p q) =
      l.set i ⟨test .primary p, (q.map (test .secondary)).getD l[i].secondary⟩ := by
  have hat : flagsAt l i = l[i] := by
    rw [flagsAt, if_pos (Int.natCast_nonneg i), Int.toNat_natCast, List.getElem?_eq_getElem h, Option.getD_some]
  rw [setFlagsAt, if_pos (Int.natCast_nonneg i), Int.toNat_natCast, hat, newFlags_eq]

/-- The following errors checks (a) and (b) report: false for an absent secondary axis (R292). -/
theorem isSome_and_newFlags_secondary (old : AxisFlags) (test : Axis → F32 → Bool) (p : F32) (q : Option F32) :
    (q.isSome && (newFlags old test p q).secondary) = (q.map (test .secondary)).getD false := by
  cases q <;> rfl

/-- `s` after checks (a) and (b) have renewed the flags, before they publish anything (R290, R292). -/
def renewedFlags (ch : ILCMap) (p : F32) (q : Option F32) (s : State) : State :=
  { s with
    limitFlag := setFlagsAt s.limitFlag ch.dataIndex
      (newFlags (flagsAt s.limitFlag ch.dataIndex) (fun a x => beyondLimit ch a x s) p q)
    feFlag := setFlagsAt s.feFlag ch.dataIndex
      (newFlags (flagsAt s.feFlag ch.dataIndex) (fun a x => followingError ch a x s) p q) }

/-- Everything checks (a) and (b) do: the flags are renewed, a change is republished, the following errors are
reported (R290 to R293). -/
theorem checkForces_eq (ch : ILCMap) (p : F32) (q : Option F32) (s : State) :
    checkForces ch p q s =
      let t := renewedFlags ch p q s
      { t with out := s.out ++
        (if t.limitFlag = s.limitFlag ∧ t.feFlag = s.feFlag then [] else [.forceActuatorWarning (aggregate t)]) ++
        [.forceActuatorFollowingError ch.actuatorId (followingError ch .primary p s)
          ((q.map fun x => followingError ch .secondary x s).getD false)] } := by
  unfold checkForces
  simp only [isSome_and_newFlags_secondary]
  split
  case isTrue hsame =>
    rw [if_pos (show (renewedFlags ch p q s).limitFlag = _ ∧ (renewedFlags ch p q s).feFlag = _ from hsame),
      List.append_nil]
    rfl
  case isFalse hchanged =>
    rw [if_neg (show ¬((renewedFlags ch p q s).limitFlag = _ ∧ (renewedFlags ch p q s).feFlag = _) from hchanged)]
    rfl

/-- The aggregate is the OR of all flags, with the flags of every channel (R293). -/
theorem aggregate_eq (s : State) :
    aggregate s = ⟨(s.limitFlag ++ s.feFlag).any fun g => g.primary || g.secondary, s.limitFlag, s.feFlag⟩ := by
  rw [aggregate, List.any_append]

/-- Settles O40 by `checkForces_eq`: the flag arrays change at the channel's index only. -/
theorem forceChecksRenewTheFlagsAndReport : Obligations.ForceChecksRenewTheFlagsAndReport := by
  intro ch p q s t limit fe renewed
  have ht : t = _ := checkForces_eq ch p q s
  have hlimit : t.limitFlag = (renewedFlags ch p q s).limitFlag := by rw [ht]
  have hfe : t.feFlag = (renewedFlags ch p q s).feFlag := by rw [ht]
  refine ⟨fun i hi => ⟨fun h => ?limit, fun h => ?fe⟩, fun hout => ?limitOutside, fun hout => ?feOutside, ?reports,
    ?frame⟩
  case limit => rw [hlimit, renewedFlags, hi]; exact setFlagsAt_newFlags _ i h _ p q
  case fe => rw [hfe, renewedFlags, hi]; exact setFlagsAt_newFlags _ i h _ p q
  case limitOutside => exact hlimit.trans (setFlagsAt_outside _ _ _ hout)
  case feOutside => exact hfe.trans (setFlagsAt_outside _ _ _ hout)
  case reports => rw [hlimit, hfe, ← aggregate_eq, ht]; rfl
  case frame => rw [ht]; rfl

/-! ### The comparisons -/

/-- The magnitude of a finite pattern, normal or subnormal (R43). -/
def realMagnitude (p : F32) : ℚ :=
  if (p.extractLsb' 23 8).toNat = 0 then ((p.extractLsb' 0 23).toNat : ℚ) / 2 ^ 149
  else ((2 ^ 23 + (p.extractLsb' 0 23).toNat : Nat) : ℚ) * 2 ^ (p.extractLsb' 23 8).toNat / 2 ^ 150

/-- The value of a finite pattern (R43). -/
def realValue (p : F32) : ℚ := if p.getLsbD 31 then -realMagnitude p else realMagnitude p

theorem floatValue_nan {p : F32} (he : (p.extractLsb' 23 8).toNat = 255) (hm : (p.extractLsb' 0 23).toNat ≠ 0) :
    floatValue p = .nan := by
  rw [floatValue, if_pos he, if_neg hm]

theorem floatValue_inf {p : F32} (he : (p.extractLsb' 23 8).toNat = 255) (hm : (p.extractLsb' 0 23).toNat = 0) :
    floatValue p = .inf (p.getLsbD 31) := by
  rw [floatValue, if_pos he, if_pos hm]

/-- The magnitude in units of 2^-149: a normal pattern's exponent is one more than the shift of its significand. -/
theorem natMagnitude_eq (p : F32) :
    (((if (p.extractLsb' 23 8).toNat = 0 then (p.extractLsb' 0 23).toNat
      else (2 ^ 23 + (p.extractLsb' 0 23).toNat) * 2 ^ ((p.extractLsb' 23 8).toNat - 1) : Nat) : Int) : ℚ) =
      realMagnitude p * 2 ^ 149 := by
  unfold realMagnitude
  split
  case isTrue => rw [div_mul_cancel₀ _ (by positivity), Int.cast_natCast]
  case isFalse he =>
    obtain ⟨e, he⟩ := Nat.exists_eq_add_one_of_ne_zero he
    rw [he, Nat.add_sub_cancel]
    push_cast
    ring

/-- A finite pattern stands for its value in units of 2^-149. -/
theorem floatValue_fin {p : F32} (he : (p.extractLsb' 23 8).toNat < 255) :
    ∃ m : Int, floatValue p = .fin m ∧ (m : ℚ) = realValue p * 2 ^ 149 := by
  refine ⟨_, by rw [floatValue, if_neg he.ne], ?_⟩
  unfold realValue
  split
  case isTrue => rw [Int.cast_neg, natMagnitude_eq, neg_mul]
  case isFalse => exact natMagnitude_eq p

section
variable {m : Int} {v : ℚ}

/-- A threshold's comparison, cleared of its denominator and of the unit 2^-149. -/
theorem ratio_lt_iff (q : Ratio) (hv : (m : ℚ) = v * 2 ^ 149) :
    q.num * 2 ^ 149 < m * Ratio.den q ↔ (q.num : ℚ) / (q.denPred + 1) < v := by
  rw [div_lt_iff₀ (by positivity), ← mul_lt_mul_iff_left₀ (show (0 : ℚ) < 2 ^ 149 by positivity), mul_right_comm, ← hv,
    Ratio.den]
  exact_mod_cast Iff.rfl

theorem lt_ratio_iff (q : Ratio) (hv : (m : ℚ) = v * 2 ^ 149) :
    m * Ratio.den q < q.num * 2 ^ 149 ↔ v < (q.num : ℚ) / (q.denPred + 1) := by
  rw [lt_div_iff₀ (by positivity), ← mul_lt_mul_iff_left₀ (show (0 : ℚ) < 2 ^ 149 by positivity), mul_right_comm, ← hv,
    Ratio.den]
  exact_mod_cast Iff.rfl

/-- The deviation from a command in thousandths, cleared of its denominators. -/
theorem ratio_lt_deviation_iff (q : Ratio) (k : Int) (hv : (m : ℚ) = v * 2 ^ 149) :
    q.num * 2 ^ 149 * 1000 < |m * 1000 - k * 2 ^ 149| * Ratio.den q ↔
      (q.num : ℚ) / (q.denPred + 1) < |v - (k : ℚ) / 1000| := by
  have hunit : (0 : ℚ) < 2 ^ 149 * 1000 := by positivity
  have hdev : ((|m * 1000 - k * 2 ^ 149| : Int) : ℚ) = |v - (k : ℚ) / 1000| * (2 ^ 149 * 1000) := by
    rw [← abs_of_pos hunit, ← abs_mul]
    push_cast
    rw [hv]
    congr 1
    ring
  rw [div_lt_iff₀ (by positivity), ← mul_lt_mul_iff_left₀ hunit,
    mul_right_comm (|v - (k : ℚ) / 1000|), ← hdev, Ratio.den, ← mul_assoc]
  exact_mod_cast Iff.rfl

end

/-- Settles O41: each comparison by what the pattern stands for. -/
theorem comparisonsFollowTheRealValues : Obligations.ComparisonsFollowTheRealValues := by
  intro p q k e m magnitude v limit
  refine ⟨fun he hm => ?nan, fun he => ?finite, fun he hm => ?infinite⟩
  case nan =>
    have hp := floatValue_nan he hm
    simp only [floatAbove, floatBelow, deviatesBeyond, hp, and_self]
  case finite =>
    obtain ⟨n, hp, hn⟩ := floatValue_fin he
    simp only [floatAbove, floatBelow, deviatesBeyond, hp, decide_eq_true_iff]
    exact ⟨ratio_lt_iff q hn, lt_ratio_iff q hn, ratio_lt_deviation_iff q k hn⟩
  case infinite =>
    have hp := floatValue_inf he hm
    simp only [floatAbove, floatBelow, deviatesBeyond, hp, and_self]

end Sys2Proof.Machine

/-! The statements about the transaction sequencer (46_transaction_sequencer.md): the verification, the assembled words
of an issue, a whole cycle, and the requests for one. -/
namespace Sys2Proof.Machine

open Sys2Proof.Safety

/-! ### Verification -/

/-- Settles O54 by the laws of `verifyAll`: the record kept is the last one published. -/
theorem verificationReportsAndClears : Obligations.VerificationReportsAndClears := by
  intro s
  obtain ⟨hout, hexp, hany, hsame, hframe⟩ := verifyAll_spec s
  exact ⟨verifyAll s, rfl, hout, hexp, hany, hsame,
    fun w hw => (verifyAll_warnRec s).trans (lastWarning_of_getLast hw _), hframe⟩

/-! ### The assembled words -/

/-- The first item for a subnet, and the items before and behind it. -/
theorem takeFirstFor_split {sub : Int} {items : List Item} (h : ∃ x ∈ items, x.subnet = sub) :
    ∃ before it behind, takeFirstFor sub items = some (it, before ++ behind) ∧ items = before ++ it :: behind ∧
      it.subnet = sub ∧ ∀ x ∈ before, x.subnet ≠ sub := by
  induction items with
  | nil =>
    obtain ⟨x, hx, -⟩ := h
    cases hx
  | cons it items ih =>
    rw [takeFirstFor]
    by_cases hit : it.subnet = sub
    · exact ⟨[], it, items, if_pos hit, rfl, hit, fun x hx => by cases hx⟩
    · obtain ⟨x, hx, hsub⟩ := h
      have hx : x ∈ items := (List.mem_cons.1 hx).resolve_left fun e => hit (e ▸ hsub)
      obtain ⟨before, y, behind, htake, hitems, hy, hbefore⟩ := ih ⟨x, hx, hsub⟩
      refine ⟨it :: before, y, behind, by rw [if_neg hit, htake]; rfl, by rw [hitems]; rfl, hy, ?_⟩
      exact List.forall_mem_cons.2 ⟨hit, hbefore⟩

/-- The items of one subnet. -/
def itemsFor (sub : Int) (items : List Item) : List Item := items.filter fun it => decide (it.subnet = sub)

/-- Taking the first item of its own subnet ahead of the others changes the order of no subnet's items. -/
theorem itemsFor_ahead {before behind : List Item} {it : Item} (h : ∀ x ∈ before, x.subnet ≠ it.subnet)
    (sub : Int) :
    itemsFor sub (it :: (before ++ behind)) = itemsFor sub (before ++ it :: behind) := by
  unfold itemsFor
  by_cases hsub : it.subnet = sub
  · have hnone : before.filter (fun x => decide (x.subnet = sub)) = [] :=
      List.filter_eq_nil_iff.2 fun x hx => by simpa [← hsub] using h x hx
    simp only [List.filter_cons, List.filter_append, hnone, List.nil_append]
  · simp only [List.filter_cons, List.filter_append, hsub, decide_false, Bool.false_eq_true, if_false]

/-- The words of items laid out one after the other, each behind its control words, with the last control words. -/
def laidOut (parts : List (List Control × Item)) (last : List Control) : List Word :=
  parts.flatMap (fun x => x.1.map controlWord ++ x.2.words) ++ last.map controlWord

/-- The runs from a place on hold every waiting item once, each subnet's in their order (R300): a pick takes the first
waiting item of its subnet. -/
theorem assembleFrom_layout (all : List Item) (fuel place : Nat) (waiting : List Item) (h : waiting.length = fuel) :
    ∃ parts last, assembleFrom all fuel place waiting = laidOut parts last ∧
      (parts.map (fun x => x.2)).Perm waiting ∧
      ∀ sub, itemsFor sub (parts.map (fun x => x.2)) = itemsFor sub waiting := by
  induction fuel generalizing place waiting with
  | zero =>
    obtain rfl := List.length_eq_zero_iff.1 h
    exact ⟨[], Config.assembleControls all place, rfl, .nil, fun _ => rfl⟩
  | succ fuel ih =>
    have hlt : Config.assemblePick all place % waiting.length < waiting.length := Nat.mod_lt _ (by omega)
    obtain ⟨before, it, behind, htake, hwaiting, hit, hbefore⟩ :=
      takeFirstFor_split ⟨_, List.getElem_mem hlt, rfl⟩
    have hrest : (before ++ behind).length = fuel := by
      rw [hwaiting, List.length_append, List.length_cons] at h
      rw [List.length_append]
      omega
    obtain ⟨parts, last, hwords, hperm, horder⟩ := ih (place + 1) (before ++ behind) hrest
    refine ⟨(Config.assembleControls all place, it) :: parts, last, ?words, ?perm, fun sub => ?order⟩
    case words =>
      rw [assembleFrom, List.getElem?_eq_getElem hlt]
      dsimp only
      rw [htake]
      dsimp only
      rw [hwords, assembledControls, laidOut, laidOut, List.flatMap_cons, List.append_assoc _ (parts.flatMap _)]
    case perm =>
      rw [hwaiting]
      exact (hperm.cons it).trans List.perm_middle.symm
    case order =>
      have hcons : itemsFor sub (it :: parts.map (fun x => x.2)) = itemsFor sub (it :: (before ++ behind)) := by
        have htail := horder sub
        unfold itemsFor at htail ⊢
        rw [List.filter_cons, List.filter_cons, htail]
      rw [List.map_cons, hcons, hwaiting]
      exact itemsFor_ahead (hit ▸ hbefore) sub

/-- Settles O55: the runs of `assembleFrom` from the first place on, with every item waiting. -/
theorem assemblyKeepsEveryFrameWhole : Obligations.AssemblyKeepsEveryFrameWhole := by
  refine ⟨rfl, fun items => ?_⟩
  cases items with
  | nil => exact ⟨[], [], rfl, .nil, fun _ => rfl⟩
  | cons it items => exact assembleFrom_layout (it :: items) _ 0 (it :: items) rfl

/-! ### What a cycle keeps -/

/-- `t` has what no phase of a running cycle writes as `s` has it: the cycle's request, the bus lists, the map, the
parameters, the broadcast counter, the pending calls, and the marks. -/
structure CycleKeeps (s t : State) : Prop where
  curOp : t.curOp = s.curOp
  tCycle : t.tCycle = s.tCycle
  busLists : t.busLists = s.busLists
  ilcMap : t.ilcMap = s.ilcMap
  params : t.params = s.params
  bcastCtr : t.bcastCtr = s.bcastCtr
  port : t.port = s.port
  configured : t.configured = s.configured
  faulted : t.faulted = s.faulted
  refusalMark : t.refusalMark = s.refusalMark

theorem cycleKeeps_of_cycleBy {s t : State} (h : CycleBy s t) : CycleKeeps s t := by
  rw [h.frame]
  exact ⟨rfl, rfl, rfl, rfl, rfl, rfl, rfl, rfl, rfl, rfl⟩

theorem cycleKeeps_verifyPhase {s t : State} (h : CycleKeeps s t) : CycleKeeps s (verifyPhase t) := by
  obtain ⟨-, -, -, -, -, hframe⟩ := verifyPhase_spec t
  rw [hframe]
  exact ⟨h.curOp, h.tCycle, h.busLists, h.ilcMap, h.params, h.bcastCtr, h.port, h.configured, h.faulted,
    h.refusalMark⟩

theorem cycleKeeps_advance {s u : State} (h : advance s = .ok u) : CycleKeeps s u := by
  by_cases hidle : s.phase = .idle
  · cases (advance_idle hidle).symm.trans h
    exact cycleKeeps_of_cycleBy (cycleBy_refl s)
  by_cases hverify : s.phase = .verify
  · have hlast : advance s = .ok (verifyPhase s) := by unfold advance; rw [hverify]
    cases hlast.symm.trans h
    exact cycleKeeps_verifyPhase (cycleKeeps_of_cycleBy (cycleBy_refl s))
  · obtain ⟨t, ht, hby, -⟩ := advance_running hidle hverify
    cases ht.symm.trans h
    exact cycleKeeps_of_cycleBy hby

/-- A phase of a running cycle is followed by another one (R301). -/
theorem phaseStep_phase_ne {s u : State} (h : PhaseStep s u) (hrun : s.phase ≠ .idle) : u.phase ≠ s.phase := by
  unfold PhaseStep at h
  cases hp : s.phase with
  | idle => exact absurd hp hrun
  | issue =>
    rw [hp] at h
    rw [h]
    exact Phase.noConfusion
  | wait n =>
    rw [hp] at h
    rw [h]
    dsimp only
    split
    · exact Phase.noConfusion
    · cases n <;> decide
  | decode n =>
    rw [hp] at h
    obtain ⟨v, -, rfl⟩ := h
    cases n <;> exact Phase.noConfusion
  | verify =>
    rw [hp] at h
    obtain ⟨v, -, rfl⟩ := h
    exact Phase.noConfusion

/-! ### A cycle request -/

section
variable {op : Op} {tm : BitVec 64} {s : State}

theorem exec_runCycle_unconfigured (h : s.configured = false) :
    exec (.runCycle op tm) s = .refused .notConfigured := if_pos h

theorem exec_runCycle_busy (hc : s.configured = true) (hb : s.cycleBusy = true) :
    exec (.runCycle op tm) s = hold (.runCycle op tm) s :=
  (if_neg (ne_false_of_eq_true hc)).trans (if_pos hb)

theorem exec_runCycle_free (hc : s.configured = true) (hb : s.cycleBusy = false) :
    exec (.runCycle op tm) s = outcome (wholeCycle op tm s) :=
  (if_neg (ne_false_of_eq_true hc)).trans (if_neg (ne_true_of_eq_false hb))

theorem exec_loadConfiguration_busy {es : List MapEntry} (hb : s.cycleBusy = true) :
    exec (.loadConfiguration es) s = hold (.loadConfiguration es) s :=
  if_neg fun h => ne_true_of_eq_false h.2 hb

theorem hold_ok {i : Instr} {u : State} (h : advance s = .ok u) :
    hold i s = .next { u with port := encode i ++ s.port } := by
  rw [hold, h, ← (cycleKeeps_advance h).port]

/-- Everything a request does with a configuration and the lock free (R301 to R310): the issue, the five subnets' turns,
and the verification with its report. -/
theorem exec_runCycle_ends (hc : s.configured = true) (hb : s.cycleBusy = false) :
    ∃ t mid, exec (.runCycle op tm) s = .next t ∧ CycleKeeps (beginCycle op tm s) t ∧
      PhaseSteps (7 + signalCount s.env.signal) (started op tm s) t ∧ t.phase = .idle ∧ t.cycleBusy = false ∧
      (∀ dt, t.exp dt = List.replicate (s.exp dt).length 0) ∧ t.signaled = s.env.signal ∧
      t.out = s.out ++ [issueWrite (busList op s) s.params.writeTimeoutMs] ++ mid ++
        [.ilcCommunicationTimeout t.anyTimeout] ∧
      ∀ b, .ilcCommunicationTimeout b ∉ mid := by
  obtain ⟨t, ht, hby, -, hsignaled, hsteps⟩ := wholeCycle_answers op tm s
  obtain ⟨new, hnew, hnoReport⟩ := hby.events
  have hall := (cycleBy_issue (beginCycle op tm s)).trans hby
  obtain ⟨warnings, hout, hwarnings, hexp, -, hframe⟩ := verifyPhase_spec t
  refine ⟨verifyPhase t, new ++ warnings, by rw [exec_runCycle_free hc hb, ht]; rfl,
    cycleKeeps_verifyPhase (cycleKeeps_of_cycleBy hall), hsteps, rfl, rfl, fun dt => ?counters, ?signaled, ?events,
    fun b hmem => ?noReport⟩
  case counters =>
    have hlen : (t.exp dt).length = (s.exp dt).length := (hall.counters dt).trans (by cases dt <;> rfl)
    rw [hexp, hlen]
  case signaled => rw [hframe]; exact hsignaled
  case events =>
    rw [hout, hnew, issuePhase_eq]
    simp only [List.append_assoc]
    rfl
  case noReport =>
    rcases List.mem_append.1 hmem with hmem | hmem
    · exact hnoReport _ hmem b rfl
    · have hwarning : ∃ w, Event.ilcCommunicationTimeout b = .warning w := by
        rw [hwarnings, List.mem_append, List.mem_append] at hmem
        rcases hmem with (hmem | hmem) | hmem <;> exact timeouts_warning hmem
      obtain ⟨w, hw⟩ := hwarning
      cases hw

end

/-- Settles O56: everything the request does, with what its phases keep. -/
theorem runCycleCompletes : Obligations.RunCycleCompletes := by
  intro op tm s hc hb
  obtain ⟨t, mid, ht, hkeeps, hsteps, hidle, hfree, hexp, hsignaled, hout, hnoReport⟩ :=
    exec_runCycle_ends (op := op) (tm := tm) hc hb
  exact ⟨t, mid, ht, hsteps, hidle, hfree, hexp, hsignaled, hkeeps.curOp, hkeeps.tCycle, hout, hnoReport,
    hkeeps.busLists, hkeeps.ilcMap, hkeeps.params, hkeeps.bcastCtr, hkeeps.port, hkeeps.configured.trans hc⟩

/-- Settles O58: a held call is one phase of the running cycle, which always answers (`advance_phaseStep`). -/
theorem cycleRequestsAreRefusedOrHeld : Obligations.CycleRequestsAreRefusedOrHeld := by
  intro op tm es s
  refine ⟨exec_runCycle_unconfigured, fun hb => ?_⟩
  obtain ⟨u, hu, hphase⟩ := advance_phaseStep s
  have hkeeps := cycleKeeps_advance hu
  exact ⟨u, hphase, hkeeps.curOp, hkeeps.tCycle, hkeeps.busLists, hkeeps.ilcMap, hkeeps.params, hkeeps.port,
    phaseStep_phase_ne hphase, fun hc => (exec_runCycle_busy hc hb).trans (hold_ok hu),
    (exec_loadConfiguration_busy hb).trans (hold_ok hu)⟩

/-! ### A cycle in which no subnet signals -/

theorem perSubnet_set_get {α : Type} (p : PerSubnet α) (n : SubnetNo) : p.set n (p.get n) = p := by
  cases n <;> rfl

/-- A wait that ends in a timeout leaves the subnet unsignaled and reads nothing (R307). -/
theorem advance_silentWait {n : SubnetNo} {s : State} (hp : s.phase = .wait n)
    (hsilent : s.env.signal.get n = false) (hs : s.signaled.get n = false) :
    advance s = .ok { s with phase := phaseAfter n } := by
  have hsame : s.signaled.set n false = s.signaled := by rw [← hs]; exact perSubnet_set_get _ n
  unfold advance
  rw [hp]
  dsimp only
  rw [hsilent, hsame]
  rfl

/-- A cycle with the request `(op, tm)` that has been issued, stands in the phase `p` and has met no signal. -/
def issuedIn (op : Op) (tm : BitVec 64) (p : Phase) (s : State) : State :=
  { issuePhase (beginCycle op tm s) with phase := p }

section
variable (op : Op) (tm : BitVec 64) (s : State)

theorem issuedIn_eq (p : Phase) :
    issuedIn op tm p s = { beginCycle op tm s with
      buf := [], len := 0, idx := 0
      faExp := raised (busList op s) .fa s.faExp, haExp := raised (busList op s) .ha s.haExp
      hmExp := raised (busList op s) .hm s.hmExp
      out := s.out ++ [issueWrite (busList op s) s.params.writeTimeoutMs], phase := p } := by
  rw [issuedIn, issuePhase_eq]
  rfl

theorem issuedIn_exp (p : Phase) (dt : DeviceType) :
    (issuedIn op tm p s).exp dt = raised (busList op s) dt (s.exp dt) := by
  rw [issuedIn_eq]
  cases dt <;> rfl

variable {s}

theorem advance_issuedIn_wait (n : SubnetNo) (h : s.env.signal.get n = false) :
    advance (issuedIn op tm (.wait n) s) = .ok (issuedIn op tm (phaseAfter n) s) := by
  rw [issuedIn_eq, issuedIn_eq]
  exact advance_silentWait rfl h (by cases n <;> rfl)

/-- A silent cycle is the issue and then the verification (R307). -/
theorem wholeCycle_silent (h : ∀ n, s.env.signal.get n = false) :
    wholeCycle op tm s = .ok (verifyPhase (issuedIn op tm .verify s)) := by
  have wait (n : SubnetNo) := advanceMany_step (advance_issuedIn_wait op tm n (h n))
  calc wholeCycle op tm s
    _ = advanceMany 11 (issuedIn op tm (.wait .one) s) := rfl
    _ = advanceMany 10 (issuedIn op tm (.wait .two) s) := wait .one 10
    _ = advanceMany 9 (issuedIn op tm (.wait .three) s) := wait .two 9
    _ = advanceMany 8 (issuedIn op tm (.wait .four) s) := wait .three 8
    _ = advanceMany 7 (issuedIn op tm (.wait .five) s) := wait .four 7
    _ = advanceMany 6 (issuedIn op tm .verify s) := wait .five 6
    _ = advanceMany 5 (verifyPhase (issuedIn op tm .verify s)) := rfl
    _ = .ok (verifyPhase (issuedIn op tm .verify s)) := advanceMany_idle rfl 5

end

/-- The counters an issue raises from 0 are the numbers of the requests (R303). -/
theorem raised_zero {l : List Int} (h : ∀ c ∈ l, c = 0) (items : List Item) (dt : DeviceType) :
    raised items dt l = (List.range l.length).map fun i => (requestsTo items dt i : Int) := by
  refine List.ext_getElem (by simp [raised]) fun i hi _ => ?_
  have hi : i < l.length := by simpa [raised] using hi
  simp [raised, h _ (List.getElem_mem hi)]

section
variable {u : State} {dt : DeviceType} {n : Nat} {count : Nat → Nat}

/-- Verification reports the indices with a count, in their order (R308). -/
theorem timeouts_of_counts (h : u.exp dt = (List.range n).map fun i => (count i : Int)) :
    timeouts dt u = ((List.range n).filter fun i => count i != 0).map fun (i : Nat) =>
      .warning (warning u .responseTimeout (actuatorIdOf dt i u)) := by
  have hindexed : (u.exp dt).zipIdx = (List.range n).map fun i => ((count i : Int), i) := by
    rw [h]
    refine List.ext_getElem (by simp) fun i _ _ => by simp
  have htest : ((fun p : Int × Nat => p.1 != 0) ∘ fun i => ((count i : Int), i)) = fun i => count i != 0 := by
    funext i
    rw [Bool.eq_iff_iff]
    simp
  rw [timeouts, hindexed, List.filter_map, List.map_map, htest]
  rfl

theorem exists_count_ne_zero (h : u.exp dt = (List.range n).map fun i => (count i : Int)) :
    (∃ c ∈ u.exp dt, c ≠ 0) ↔ ((List.range n).filter fun i => count i != 0) ≠ [] := by
  simp [h, List.filter_eq_nil_iff]

end

/-- Settles O57: verification finds the counters as the issue raised them. -/
theorem silentCycleTimesOutEveryRequest : Obligations.SilentCycleTimesOutEveryRequest := by
  intro op tm s hc hb hzero hsilent asked reports
  have hissued := issuedIn_eq op tm s .verify
  have hraised := issuedIn_exp op tm s .verify
  have hcycle := wholeCycle_silent op tm hsilent
  generalize issuedIn op tm .verify s = u at hissued hraised hcycle
  have hcounts (dt : DeviceType) := (hraised dt).trans (raised_zero (hzero dt) (busList op s) dt)
  have hreports (dt : DeviceType) : timeouts dt u = reports dt := by
    rw [timeouts_of_counts (hcounts dt), hissued]
    rfl
  obtain ⟨mid, hout, hmid, hexp, hany, hframe⟩ := verifyPhase_spec u
  refine ⟨verifyPhase u, by rw [exec_runCycle_free hc hb, hcycle]; rfl, ?events, ?any, fun dt => ?counters,
    fun n => ?signaled⟩
  case events =>
    have hwrite : u.out = s.out ++ [issueWrite (busList op s) s.params.writeTimeoutMs] := by rw [hissued]
    rw [hout, hmid, hwrite, hreports, hreports, hreports]
    simp only [List.append_assoc]
  case any =>
    have hbefore : u.anyTimeout ≠ true := by rw [hissued]; exact Bool.false_ne_true
    rw [hany, or_iff_right hbefore]
    exact exists_congr fun dt => exists_count_ne_zero (hcounts dt)
  case counters => rw [hexp, hcounts, List.length_map, List.length_range]
  case signaled =>
    rw [hframe, hissued]
    cases n <;> rfl

/-! ### A block that serves cycle requests -/

/-- The call words of cycle requests, in order. -/
def cycleCalls (requests : List (Op × BitVec 64)) : List Word :=
  requests.flatMap fun r => encode (.runCycle r.1 r.2)

/-- A step of such a block is a whole cycle of the request at the head, or waits with none. -/
theorem servesCycles_step {s : State} (h : ServesCycles s) : ∃ t, step s = .next t ∧ ServesCycles t := by
  obtain ⟨hf, hr, hc, hidle, hfree, requests, hport⟩ := h
  cases requests with
  | nil =>
    refine ⟨s.tick, ?_, hf, hr, hc, hidle, hfree, [], hport⟩
    rw [step_unmarked hf hr, serve_noCall (s := s.tick) hport, advance_idle (s := s.tick) hidle]
    rfl
  | cons r requests =>
    obtain ⟨op, tm⟩ := r
    have hdecode : decode s.port = .ok (.runCycle op tm, cycleCalls requests) := by
      rw [hport, List.flatMap_cons]
      exact decode_runCycle op tm _
    obtain ⟨t, -, ht, hkeeps, -, htidle, htfree, -⟩ :=
      exec_runCycle_ends (op := op) (tm := tm) (s := { s.tick with port := cycleCalls requests }) hc hfree
    exact ⟨t, (stepRunsTheDecodedInstruction s _ _ hf hr hdecode).trans ht, hkeeps.faulted.trans hf,
      hkeeps.refusalMark.trans hr, hkeeps.configured.trans hc, htidle, htfree, requests, hkeeps.port⟩

/-- A block that takes a step and is again such a block runs on for any number of steps. -/
theorem servesCycles_run (k : Nat) {s : State} (h : ServesCycles s) : RunsSafely k s := by
  induction k generalizing s with
  | zero => exact ⟨s, rfl⟩
  | succ k ih =>
    obtain ⟨t, ht, hserves⟩ := servesCycles_step h
    obtain ⟨u, hu⟩ := ih hserves
    exact ⟨u, (run_succ core k ht).trans hu⟩

/-- Settles O59: the block is again such a block after every step. -/
theorem cyclesNeverStopTheBlock : Obligations.CyclesNeverStopTheBlock :=
  fun _ h => ⟨servesCycles_step h, fun k => servesCycles_run k h⟩

end Sys2Proof.Machine

/-! The statement about the warnings (60_exceptions.md): `raise` and the codes of the kinds. -/
namespace Sys2Proof.Machine

open Sys2Proof.Safety

theorem exec_raise (k : WarnKind) (aid : Int) (s : State) : exec (.raise k aid) s = .next (warned s k aid) :=
  congrArg Host.Outcome.next (raise_eq k aid s)

/-- Settles O53: `raise` is one warning, which the statement writes out (`exec_raise`); the codes are the table of
R331. -/
theorem raiseOverwritesAndPublishes : Obligations.RaiseOverwritesAndPublishes :=
  ⟨exec_raise, rfl⟩

end Sys2Proof.Machine

/-! The statements about the reset, the configuration load and the lock on a bus list (70_reset_and_hazards.md): the
state right after reset, the map a load builds or refuses, and the changes a running cycle excludes. -/
namespace Sys2Proof.Machine

open Sys2Proof.Safety

/-! ### What the load's check accepts -/

theorem orientationListed_iff (o : Orientation) :
    orientationListed o = true ↔ o ∈ [Orientation.plusX, .minusX, .plusY, .minusY] := by
  cases o <;> simp [orientationListed]

/-- The check on one entry, with the clause of each device type as an implication (R194). -/
theorem entryAdmitted_iff (e : MapEntry) :
    entryAdmitted e = true ↔
      (1 ≤ e.subnet ∧ e.subnet ≤ 5) ∧ e.channel.orientation ∈ [Orientation.plusX, .minusX, .plusY, .minusY] ∧
      (e.channel.deviceType = .fa →
        1 ≤ e.address.toNat ∧ e.address.toNat ≤ 46 ∧ (e.address.toNat ≤ 16 ↔ e.channel.secondaryDataIndex = -1)) ∧
      (e.channel.deviceType = .ha → 1 ≤ e.address.toNat ∧ e.address.toNat ≤ 6) ∧
      (e.channel.deviceType = .hm → 84 ≤ e.address.toNat ∧ e.address.toNat ≤ 89 ∧ e.subnet = 5) := by
  rw [← orientationListed_iff]
  cases hdt : e.channel.deviceType <;> simp [entryAdmitted, hdt, and_assoc, iff_comm]

/-- Every device type's addresses end below the broadcast addresses, so R194's fourth constraint follows. -/
theorem entryAdmitted_notBroadcast {e : MapEntry} (h : entryAdmitted e = true) :
    e.address ≠ 248#8 ∧ e.address ≠ 249#8 := by
  obtain ⟨-, -, hfa, hha, hhm⟩ := (entryAdmitted_iff e).1 h
  have hle : e.address.toNat ≤ 89 := by
    cases hdt : e.channel.deviceType with
    | fa => have := hfa hdt; omega
    | ha => have := hha hdt; omega
    | hm => have := hhm hdt; omega
  constructor <;> intro heq <;> simp [heq] at hle

theorem entryOk_iff (p : Params) (e : MapEntry) :
    EntryOk p e ↔ entryAdmitted e = true ∧
      0 ≤ e.channel.dataIndex ∧ e.channel.dataIndex < channelCount p e.channel.deviceType := by
  constructor
  case mp => exact fun h => ⟨(entryAdmitted_iff e).2 ⟨h.subnet, h.orientation, h.fa, h.ha, h.hm⟩, h.index⟩
  case mpr =>
    rintro ⟨hadmitted, hindex⟩
    obtain ⟨hsubnet, horientation, hfa, hha, hhm⟩ := (entryAdmitted_iff e).1 hadmitted
    exact ⟨hsubnet, hfa, hha, hhm, entryAdmitted_notBroadcast hadmitted, hindex, horientation⟩

theorem entriesApart_iff (e e' : MapEntry) :
    entriesApart e e' = true ↔ ¬(e.subnet = e'.subnet ∧ e.address = e'.address) ∧
      ¬(e.channel.deviceType = e'.channel.deviceType ∧ e.channel.dataIndex = e'.channel.dataIndex) := by
  simp [entriesApart, imp_iff_not_or]

theorem allApart_iff (es : List MapEntry) :
    allApart es = true ↔ es.Pairwise fun e e' => entriesApart e e' = true := by
  induction es with
  | nil => simp [allApart]
  | cons e es ih => simp [allApart, ih]

/-- The check of a load is the seven constraints of R194. -/
theorem mapAdmitted_iff (p : Params) (es : List MapEntry) : mapAdmitted p es = true ↔ MapOk p es := by
  have hentries : mapAdmitted p es = true ↔ (∀ e ∈ es, EntryOk p e) ∧ allApart es = true := by
    simp [mapAdmitted, entryOk_iff, and_assoc]
  have hapart : allApart es = true ↔
      (es.Pairwise fun e e' => ¬(e.subnet = e'.subnet ∧ e.address = e'.address)) ∧
      es.Pairwise fun e e' =>
        ¬(e.channel.deviceType = e'.channel.deviceType ∧ e.channel.dataIndex = e'.channel.dataIndex) := by
    simp only [allApart_iff, entriesApart_iff, List.pairwise_and_iff]
  rw [hentries, hapart]
  exact ⟨fun ⟨he, hp, hi⟩ => ⟨he, hp, hi⟩, fun h => ⟨h.entries, h.places, h.indices⟩⟩

/-! ### The map a load builds -/

/-- On subnets 1 to 5 a key of the table is one (subnet, address) (R191). -/
theorem mapKey_inj {sub sub' : Int} {a a' : Byte} (h : 1 ≤ sub) (h' : 1 ≤ sub') (heq : mapKey sub a = mapKey sub' a') :
    sub = sub' ∧ a = a' := by
  have ha := a.isLt
  have ha' := a'.isLt
  unfold mapKey at heq
  exact ⟨by omega, BitVec.eq_of_toNat_eq (by omega)⟩

/-- The table is built entry by entry, in the order of P_ILC_MAP (R193). -/
theorem buildMap_concat (es : List MapEntry) (e : MapEntry) :
    buildMap (es ++ [e]) = keyPut (buildMap es) (mapKey e.subnet e.address) e.channel := by
  simp [buildMap]

theorem keyGet_buildMap_absent {es : List MapEntry} {k : Nat} (h : ∀ e ∈ es, k ≠ mapKey e.subnet e.address) :
    keyGet (buildMap es) k = none := by
  induction es using List.reverseRecOn with
  | nil => rfl
  | append_singleton es e ih =>
    rw [buildMap_concat, keyGet_keyPut_other _ _ (h e (by simp))]
    exact ih fun x hx => h x (List.mem_append_left _ hx)

/-- No later entry overwrites an earlier one, as their keys differ. -/
theorem keyGet_buildMap_mem {es : List MapEntry} {e : MapEntry} (he : e ∈ es)
    (h : es.Pairwise fun x y => mapKey x.subnet x.address ≠ mapKey y.subnet y.address) :
    keyGet (buildMap es) (mapKey e.subnet e.address) = some e.channel := by
  induction es using List.reverseRecOn with
  | nil => cases he
  | append_singleton es last ih =>
    obtain ⟨hearlier, -, hlast⟩ := List.pairwise_append.1 h
    rw [buildMap_concat]
    rcases List.mem_append.1 he with hmem | hmem
    · rw [keyGet_keyPut_other _ _ (hlast e hmem last List.mem_cons_self)]
      exact ih hmem hearlier
    · rw [List.mem_singleton.1 hmem, keyGet_keyPut_self]

section
variable {es : List MapEntry} {p : Params} {t : State}

/-- Entries in different places have different keys (R194 constraint 5). -/
theorem mapOk_keys (h : MapOk p es) :
    es.Pairwise fun x y => mapKey x.subnet x.address ≠ mapKey y.subnet y.address :=
  h.places.imp_of_mem fun hx hy hne heq =>
    hne (mapKey_inj (h.entries _ hx).subnet.1 (h.entries _ hy).subnet.1 heq)

theorem lookup_buildMap_mem (h : MapOk p es) (ht : t.ilcMap = buildMap es) {e : MapEntry} (he : e ∈ es) :
    lookup e.subnet e.address t = .channel e.channel := by
  obtain ⟨hlow, hhigh⟩ := (h.entries e he).subnet
  exact lookup_mapped (by omega) (ht ▸ keyGet_buildMap_mem he (mapOk_keys h))

theorem lookup_buildMap_absent (h : MapOk p es) (ht : t.ilcMap = buildMap es) {sub : Int} {a : Byte} (hlow : 1 ≤ sub)
    (hhigh : sub ≤ 5) (hnone : ∀ e ∈ es, ¬(e.subnet = sub ∧ e.address = a)) : lookup sub a t = .invalid := by
  refine lookup_unmapped (by omega) (ht ▸ keyGet_buildMap_absent fun e he heq => hnone e he ?_)
  exact mapKey_inj (h.entries e he).subnet.1 hlow heq.symm

end

/-! ### The load -/

theorem exec_loadConfiguration_free {es : List MapEntry} {s : State} (hidle : s.phase = .idle)
    (hfree : s.cycleBusy = false) : exec (.loadConfiguration es) s = outcome (loadConfig es s) :=
  if_pos ⟨hidle, hfree⟩

/-- `s` after a load of `es` (R372). -/
def loadedWith (es : List MapEntry) (s : State) : State :=
  { s with
    ilcMap := buildMap es, configured := true
    faExp := List.replicate s.params.nFA 0, haExp := List.replicate s.params.nHA 0
    hmExp := List.replicate s.params.nHM 0 }

theorem loadConfig_ok {es : List MapEntry} {s : State} (h : MapOk s.params es) :
    loadConfig es s = .ok (loadedWith es s) := if_pos ((mapAdmitted_iff _ _).2 h)

theorem loadConfig_invalid {es : List MapEntry} {s : State} (h : ¬MapOk s.params es) :
    loadConfig es s = .error .configInvalid := if_neg fun hadmitted => h ((mapAdmitted_iff _ _).1 hadmitted)

/-- Settles O33: the load's check is R194 (`mapAdmitted_iff`), and under it every key of the table has one entry. -/
theorem loadConfigurationBuildsTheMap : Obligations.LoadConfigurationBuildsTheMap := by
  intro es s hidle hfree
  rw [exec_loadConfiguration_free hidle hfree]
  refine ⟨fun hok => ⟨loadedWith es s, by rw [loadConfig_ok hok]; rfl, fun e he => ?mapped,
    fun sub a hlow hhigh hnone => ?unmapped, rfl⟩, fun hbad => outcome_error (loadConfig_invalid hbad)⟩
  case mapped => exact lookup_buildMap_mem hok rfl he
  case unmapped => exact lookup_buildMap_absent hok rfl hlow hhigh hnone

/-! ### The state right after reset -/

/-- Settles O1: each field is as R371 gives it; the counters and flags are replicated zeros. -/
theorem resetState : Obligations.ResetState := by
  refine ⟨rfl, rfl, rfl, rfl, fun _ => rfl, fun dt c hc => ?counters, fun sub a hlow hhigh => ?map, rfl,
    fun n => ?signaled, rfl, rfl, rfl, fun _ hf => List.eq_of_mem_replicate hf,
    fun _ hf => List.eq_of_mem_replicate hf, rfl, rfl, rfl, List.length_replicate, List.length_replicate,
    List.length_replicate, List.length_replicate, List.length_replicate⟩
  case counters => cases dt <;> exact List.eq_of_mem_replicate hc
  case map => exact lookup_unmapped (by omega) rfl
  case signaled => cases n <;> rfl

/-- Settles O2: the lists are empty, the counters and flags replicated to their sizes, and no cycle holds the lock. -/
theorem resetMeetsInvariant : Obligations.ResetMeetsInvariant where
  buffer := ⟨rfl, Nat.le_refl 0, Nat.zero_le _⟩
  memory := Memory.wf_reset
  busLists := ⟨rfl, fun _ hp => absurd hp List.not_mem_nil⟩
  items _ hp := absurd hp List.not_mem_nil
  map := rfl
  counters := ⟨List.length_replicate, List.length_replicate, List.length_replicate⟩
  flags := ⟨List.length_replicate, List.length_replicate⟩
  lock := by decide

/-! ### A bus list whose cycle holds the lock -/

theorem busListHeld_iff (op : Op) (s : State) : busListHeld op s = true ↔ s.cycleBusy = true ∧ s.curOp = op := by
  simp [busListHeld]

theorem changingBusList_held {op : Op} {s : State} (h : busListHeld op s = true) (r : Except Fault State) :
    changingBusList op s r = .refused (.busListLocked op) := if_pos h

theorem exec_clearBusList_free {op : Op} {s : State} (h : busListHeld op s = false) :
    exec (.clearBusList op) s = .next (setBusList op [] s) := changingBusList_ok h rfl

/-- Settles O30: every change of a list is one `changingBusList`, which looks at the lock before the change. -/
theorem heldBusListIsRefused : Obligations.HeldBusListIsRefused := by
  intro op sub a f p s
  refine ⟨fun hbusy hop => ?held, fun hnot => ⟨setBusList op [] s, ?clears, busList_setBusList_self op [] s,
    fun _ hne => busList_setBusList_other [] s hne, rfl⟩⟩
  case held =>
    have hheld : busListHeld op s = true := (busListHeld_iff op s).2 ⟨hbusy, hop⟩
    and_intros <;> exact changingBusList_held hheld _
  case clears => exact exec_clearBusList_free (Bool.eq_false_iff.2 fun hheld => hnot ((busListHeld_iff op s).1 hheld))

end Sys2Proof.Machine

/-! The statement about the words 30_encoding.md writes out: each is a word of a row, or of a class and of no row. -/
namespace Sys2Proof

open Sys2Proof.Machine

/-- Settles O6: the first four are words of their rows (`txdWord`, `rxdWord`, `tswWord`, `eofWord`), the next three
words of a class only, and the call is the encoding of the row with zero operands, which reads back. -/
theorem knownWordsDecode : Obligations.KnownWordsDecode :=
  ⟨decode_txdWord 0x4B#8 [], decode_rxdWord 0x4B#8 [], decode_tswWord 0x34#8 [], decode_eofWord [],
    decode_classTs (by decide) [], decode_classEofw (by decide) [],
    decode_encode (.classData 0x9001#16) [] (by decide),
    decode_encode (.rspFaReportServerID ⟨⟨.fa, 0, 0, 0, 0, 0, .plusX⟩, 0, 0#8, 0, 0#64⟩) [] (by decide)⟩

end Sys2Proof
